-- ==== Sys2Proof/Word.lean ====
section
/-!
DEFINITION. The bit-level types of the CA-hash engine.

A bit sequence of the spec (00_scope.md R15) of length `n` is a `BitVec n` read from its most significant bit: element
`i` of the sequence is `getMsbD i`, so element 0 is the leftmost. This is the order in which 20_memory.md R72 packs
a sequence into register words.
-/

namespace Sys2Proof

/-- A register word of 32 bits (00_scope.md R16). -/
abbrev Word := BitVec 32

/-- A byte of a byte string (00_scope.md R17). -/
abbrev Byte := BitVec 8

/-- A 256-bit sequence: ACC, DIGEST or EXP (00_scope.md R11, R15). -/
abbrev Digest := BitVec 256

/-- A CA state of `w` cells; cell `i` is `getMsbD i` (00_scope.md R15). -/
abbrev Cells (w : Nat) := BitVec w

end Sys2Proof
end

