-- ==== Sys2Proof/Machine/Automaton.lean ====
section
/-!
DEFINITION. The CA engine and the compressor as functions (40_ca_engine.md R122-R128), for every state width `w`
(00_scope.md R10). All cells are computed at once from the pre-step state (R127), by operations on whole sequences;
Machine/Reference.lean holds the spec's cell-by-cell forms, and the obligations compare the two (log 11).
-/

namespace Sys2Proof.Machine

/-- The number whose binary digits are `bits(m)` (00_scope.md R17): bytes in order, each most significant bit first. -/
def bytesNat (m : List Byte) : Nat := m.foldl (fun n b => 256 * n + b.toNat) 0

/-- `init(m)` (40_ca_engine.md R122): `bits(m)` left-aligned, cut at `w` cells, the remaining cells 0. -/
def initCells (w : Nat) (m : List Byte) : Cells w := BitVec.ofNat w ((bytesNat m <<< w) >>> (8 * m.length))

/-- Each cell's left neighbour, the cell of the next lower index; 0 beyond cell 0 (40_ca_engine.md R123). -/
def leftNeighbours {w : Nat} (S : Cells w) : Cells w := S >>> 1

/-- Each cell's right neighbour, the cell of the next higher index; 0 beyond the last cell (40_ca_engine.md R123). -/
def rightNeighbours {w : Nat} (S : Cells w) : Cells w := S <<< 1

/-- The cells at which `S` is `b`. -/
def cellsEqual {w : Nat} (b : Bool) (S : Cells w) : Cells w := if b then S else ~~~S

/-- The cells whose neighbourhood selects rule-ROM entry `index` (40_ca_engine.md R128): left, center and right are bits
2, 1 and 0 of `index`. -/
def cellsSelecting {w : Nat} (S : Cells w) (index : Nat) : Cells w :=
  cellsEqual (index.testBit 2) (leftNeighbours S) &&& cellsEqual (index.testBit 1) S &&&
    cellsEqual (index.testBit 0) (rightNeighbours S)

/-- `evolve(S, rule)` (40_ca_engine.md R123): the cells that select a rule-ROM entry holding 1. -/
def evolve {w : Nat} (S : Cells w) (rule : BitVec 8) : Cells w :=
  (List.range 8).foldl (fun next index => if rule.getLsbD index then next ||| cellsSelecting S index else next) 0#w

/-- The cells 256k to 256k+255 of `S` as a 256-bit sequence, with 0 past the last cell. -/
def foldChunk {w : Nat} (S : Cells w) (k : Nat) : Digest := BitVec.ofNat 256 ((S.toNat <<< (256 * (k + 1))) >>> w)

/-- `S` folded from accumulator position 0: the exclusive-or of its chunks of 256 cells. -/
def foldCells {w : Nat} (S : Cells w) : Digest :=
  (List.range ((w + 255) / 256)).foldl (fun a k => a ^^^ foldChunk S k) 0#256

/-- The working registers of a CA hash: S, ACC and POS. -/
structure HashRegs (w : Nat) where
  cells : Cells w
  acc : Digest
  pos : BitVec 8
deriving DecidableEq, Repr

/-- `absorb(ACC, POS, S)` (40_ca_engine.md R124): cell `j` is XORed into position `(POS + j) % 256`, and POS moves on by
`w` modulo 256. Rotating right moves a sequence to higher positions. -/
def absorb {w : Nat} (h : HashRegs w) : HashRegs w :=
  { h with
    acc := h.acc ^^^ (foldCells h.cells).rotateRight h.pos.toNat
    pos := h.pos + BitVec.ofNat 8 w }

/-- One evolution step, absorbed: the loop body of RUN (40_ca_engine.md R135) and of cahash (R125). -/
def evolveAbsorb {w : Nat} (rule : BitVec 8) (h : HashRegs w) : HashRegs w :=
  absorb { h with cells := evolve h.cells rule }

/-- `repeat steps times` of the loop body (00_scope.md R19; 40_ca_engine.md R125, R135). -/
def runSteps {w : Nat} (rule : BitVec 8) : Nat → HashRegs w → HashRegs w
  | 0, h => h
  | n + 1, h => runSteps rule n (evolveAbsorb rule h)

/-- `cahash(m, rule, steps)` (40_ca_engine.md R125): the initial state is never absorbed. -/
def cahash (w : Nat) (m : List Byte) (rule : BitVec 8) (steps : Nat) : HashRegs w :=
  runSteps rule steps { cells := initCells w m, acc := 0, pos := 0 }

end Sys2Proof.Machine
end

