-- ==== Sys2Proof/Config.lean ====
section
/-!
DEFINITION. What is fixed for one machine, and the free values.
-/

namespace Sys2Proof.Config

/-- The state width in cells (00_scope.md R10; log 14). -/
abbrev W : Nat := 512

/-- The constant that register ID reads (10_state.md R31). -/
def idWord : Word := 0x43414801#32

/-- `draw()` of 00_scope.md R19: the free word that the `n`-th read of an engine-written register while busy returns
(20_memory.md R82). It has no body, so nothing can be proved of its value. Log 5, DESIGN CHOICE (safe). -/
opaque draw (n : Nat) : Word

end Sys2Proof.Config
end

