-- ==== Sys2Proof/Syntax.lean ====
section
/-!
DEFINITION. The commands, one constructor for each row of spec/opcode_table.json (30_encoding.md R103, R105).
No command has an operand in its word (R102); ILLEGAL, the catch-all row, carries the word it stands for.
-/

namespace Sys2Proof

/-- A command word, decoded (30_encoding.md R103-R105). -/
inductive Instr where
  /-- 0x0, 40_ca_engine.md R130. -/
  | nop
  /-- 0x1, R131. -/
  | init
  /-- 0x2, R132. -/
  | evolve
  /-- 0x3, R133. -/
  | clracc
  /-- 0x4, R134. -/
  | absorb
  /-- 0x5, R135. -/
  | run
  /-- 0x6, 41_hash_mining.md R166. -/
  | hash
  /-- 0x7, R168. -/
  | check
  /-- 0x8, R169-R172. -/
  | mine
  /-- 0x9, R175. -/
  | verify
  /-- 0xA, R180. -/
  | abort
  /-- 0xB, reserved: ILLEGAL by 30_encoding.md R105. -/
  | reservedB
  /-- 0xC, reserved. -/
  | reservedC
  /-- 0xD, reserved. -/
  | reservedD
  /-- 0xE, reserved. -/
  | reservedE
  /-- 0xF, reserved. -/
  | reservedF
  /-- Any word with a nonzero bit in 31:4 (30_encoding.md R105). -/
  | illegal (word : Word)
deriving DecidableEq, Repr

/-- The name of the table's row that the constructor stands for (30_encoding.md R103, R110). -/
def Instr.mnemonic : Instr → String
  | .nop => "NOP"
  | .init => "INIT"
  | .evolve => "EVOLVE"
  | .clracc => "CLRACC"
  | .absorb => "ABSORB"
  | .run => "RUN"
  | .hash => "HASH"
  | .check => "CHECK"
  | .mine => "MINE"
  | .verify => "VERIFY"
  | .abort => "ABORT"
  | .reservedB => "RESERVED_B"
  | .reservedC => "RESERVED_C"
  | .reservedD => "RESERVED_D"
  | .reservedE => "RESERVED_E"
  | .reservedF => "RESERVED_F"
  | .illegal _ => "ILLEGAL"

end Sys2Proof
end

