-- ==== Sys2Proof/Machine/State.lean ====
section
/-!
DEFINITION. The state of the CA-hash engine (10_state.md), the events of the world around it, and the state after reset
(70_reset_and_hazards.md R241).
-/

namespace Sys2Proof.Machine

/-- The outcome codes that STATUS.RESULT can hold (10_state.md R38; 60_exceptions.md R205; log 13). -/
inductive ResultCode where
  /-- 0: no command has completed since the last acceptance or reset. -/
  | none
  /-- 1: the command did its work. -/
  | ok
  /-- 2: the difficulty target is not met (CHECK, VERIFY). -/
  | difficultyUnmet
  /-- 3: the recomputed digest differs from EXP (VERIFY). -/
  | hashMismatch
  /-- 4: the search ended without success (MINE). -/
  | exhausted
  /-- 5: an ABORT was written while the MINE was busy. -/
  | aborted
  /-- 6: the word decoded to ILLEGAL. -/
  | illegalCmd
  /-- 7: DIFF > 64 at the first MINE step. -/
  | badDiff
deriving DecidableEq, Repr

/-- A host transaction (20_memory.md R71): a read, or a write with its data. -/
inductive HostOp where
  /-- `MemRead(addr, 4)`. -/
  | read (addr : BitVec 12)
  /-- `MemWrite(addr, 4, v)`. -/
  | write (addr : BitVec 12) (v : Word)
deriving DecidableEq, Repr

/-- What can happen next: the three kinds of transition of the model (20_memory.md R71; 60_exceptions.md R202;
70_reset_and_hazards.md R240). -/
inductive Event where
  /-- The reset event. -/
  | reset
  /-- A host transaction. -/
  | host (op : HostOp)
  /-- The engine's turn. -/
  | engine
deriving DecidableEq, Repr

/-- The state. Names are the spec's register names; 10_state.md gives each its rule. -/
structure State where
  /-- CTRL.IE (R32). -/
  ie : Bool
  /-- STATUS.DONE (R35). -/
  done : Bool
  /-- STATUS.CERR (R36). -/
  cerr : Bool
  /-- STATUS.WERR (R37). -/
  werr : Bool
  /-- STATUS.RESULT (R38). -/
  result : ResultCode
  /-- RULE, the contents of the rule ROM (R39). -/
  rule : BitVec 8
  /-- STEPS (R40). -/
  steps : Word
  /-- DIFF (R41). -/
  diff : BitVec 8
  /-- MLEN (R42). -/
  mlen : BitVec 16
  /-- NONCE (R43). -/
  nonce : Word
  /-- MAXATT (R44). -/
  maxatt : Word
  /-- ATTEMPTS (R46). -/
  attempts : Word
  /-- MSG[0..63] (R47). -/
  msg : Vector Byte 64
  /-- S, the CA state (R48). -/
  cells : Cells Config.W
  /-- ACC (R49). -/
  acc : Digest
  /-- DIGEST (R50). -/
  digest : Digest
  /-- EXP (R51). -/
  exp : Digest
  /-- POS, hidden (R52). -/
  pos : BitVec 8
  /-- OP, hidden (R53), and with it STATUS.BUSY (R34): `some i` is BUSY = 1 with `i` latched, `none` is BUSY = 0
  (60_exceptions.md R200; log 3). -/
  op : Option Instr
  /-- ABORTREQ, hidden (R54). -/
  abortReq : Bool
  /-- The port rdata (20_memory.md R70): the word the latest transition read, `none` if it was no read (log 6). -/
  rdata : Option Word
  /-- The model's own: the events to come, the next one first (log 1). -/
  pending : List Event
  /-- The model's own: how many free words have been drawn (log 5). -/
  draws : Nat
deriving DecidableEq, Repr

/-- Why the machine would stop with a fault. There is no reason: the block has no traps and no error response
(60_exceptions.md R207; 20_memory.md R71). Nobody raises one, which is what the spec says (safe). -/
inductive Fault where
deriving DecidableEq, Repr

/-- Why the model would refuse a command. -/
inductive Refusal where
  /-- The command has no meaning yet. Raised by `exec` for an arm that is rejected by name, and by nothing else; in
  this model by no arm at all. Safe: a refusal proves nothing about the hardware. -/
  | notModelled (mnemonic : String)
deriving DecidableEq, Repr

/-- The state after reset (70_reset_and_hazards.md R241). The last three fields are no registers: no read has
happened (log 6), nothing is scheduled (log 1), nothing was drawn (log 5). -/
def State.reset : State where
  ie := false
  done := false
  cerr := false
  werr := false
  result := .none
  rule := 0
  steps := 0
  diff := 0
  mlen := 0
  nonce := 0
  maxatt := 0
  attempts := 0
  msg := Vector.replicate 64 0
  cells := 0
  acc := 0
  digest := 0
  exp := 0
  pos := 0
  op := none
  abortReq := false
  rdata := none
  pending := []
  draws := 0

end Sys2Proof.Machine
end

