-- ==== Sys2Proof/Machine/Flags.lean ====
section
/-!
DEFINITION. STATUS and the interrupt: the only outcome indications of the block (10_state.md R58). The block has no
condition codes.
-/

namespace Sys2Proof.Machine

/-- STATUS.BUSY (10_state.md R34): a command is latched (60_exceptions.md R200; log 3). -/
def State.busy (s : State) : Bool := s.op.isSome

/-- The output `irq`, a level: CTRL.IE & STATUS.DONE at all times (10_state.md R55; log 8). -/
def State.irq (s : State) : Bool := s.ie && s.done

/-- The 4-bit code of an outcome (10_state.md R38). -/
def ResultCode.code : ResultCode → BitVec 4
  | .none => 0#4
  | .ok => 1#4
  | .difficultyUnmet => 2#4
  | .hashMismatch => 3#4
  | .exhausted => 4#4
  | .aborted => 5#4
  | .illegalCmd => 6#4
  | .badDiff => 7#4

/-- A flag as a word with the flag in bit 0. -/
def flagWord (b : Bool) : Word := (BitVec.ofBool b).setWidth 32

/-- The word STATUS reads as (20_memory.md R80; 10_state.md R33). -/
def State.statusWord (s : State) : Word :=
  (s.result.code.setWidth 32 <<< 8) ||| (flagWord s.werr <<< 3) ||| (flagWord s.cerr <<< 2) |||
    (flagWord s.done <<< 1) ||| flagWord s.busy

/-- A host write to STATUS: write 1 to clear DONE, CERR and WERR (20_memory.md R86). -/
def State.clearStatus (v : Word) (s : State) : State :=
  { s with
    done := s.done && !v.getLsbD 1
    cerr := s.cerr && !v.getLsbD 2
    werr := s.werr && !v.getLsbD 3 }

/-- `finish(code)`, the completion of the current command (60_exceptions.md R204). It stands where another machine
takes an exception: it saves nothing, branches nowhere and changes no mode (R208). -/
def State.finish (code : ResultCode) (s : State) : State :=
  { s with result := code, done := true, op := none, abortReq := false }

end Sys2Proof.Machine
end

