-- ==== Sys2Proof/Machine/Operands.lean ====
section
/-!
DEFINITION. How a command reads its operands (30_encoding.md R102): always the current content of a named register. The
registers that a rule reads whole (RULE, STEPS, NONCE, MAXATT, ATTEMPTS, S, ACC, POS, EXP) are read as fields.
-/

namespace Sys2Proof.Machine

/-- The `steps` operand: STEPS as an unsigned repeat count (R102; 00_scope.md R22). -/
def State.stepCount (s : State) : Nat := s.steps.toNat

/-- The `d` operand: DIFF as an unsigned count of hex digits (R102). -/
def State.difficulty (s : State) : Nat := s.diff.toNat

/-- The `mlen` operand: `min(MLEN, 64)` bytes (R102; 10_state.md R42). -/
def State.messageLength (s : State) : Nat := min s.mlen.toNat 64

/-- `msgbytes()`, the effective message `MSG[0 .. min(MLEN, 64))` (40_ca_engine.md R121). -/
def State.msgBytes (s : State) : List Byte := s.msg.toList.take s.messageLength

end Sys2Proof.Machine
end

