-- ==== Sys2Proof/Machine/CaCommands.lean ====
section
/-!
DEFINITION. The engine transitions of NOP, INIT, EVOLVE, CLRACC, ABSORB and RUN (40_ca_engine.md R130-R135). None can fail
(R120).
-/

namespace Sys2Proof.Machine

/-- The working registers S, ACC and POS. -/
def State.hashRegs (s : State) : HashRegs Config.W := { cells := s.cells, acc := s.acc, pos := s.pos }

/-- The state with the working registers replaced. -/
def State.setHashRegs (h : HashRegs Config.W) (s : State) : State :=
  { s with cells := h.cells, acc := h.acc, pos := h.pos }

/-- NOP (40_ca_engine.md R130). -/
def execNop (s : State) : Host.Outcome State Fault Refusal := .next (s.finish .ok)

/-- INIT (40_ca_engine.md R131). -/
def execInit (s : State) : Host.Outcome State Fault Refusal :=
  .next (State.finish .ok { s with cells := initCells Config.W s.msgBytes })

/-- EVOLVE (40_ca_engine.md R132). -/
def execEvolve (s : State) : Host.Outcome State Fault Refusal :=
  .next (State.finish .ok { s with cells := evolve s.cells s.rule })

/-- CLRACC (40_ca_engine.md R133). -/
def execClracc (s : State) : Host.Outcome State Fault Refusal :=
  .next (State.finish .ok { s with acc := 0, pos := 0 })

/-- ABSORB (40_ca_engine.md R134). -/
def execAbsorb (s : State) : Host.Outcome State Fault Refusal :=
  .next ((s.setHashRegs (absorb s.hashRegs)).finish .ok)

/-- RUN (40_ca_engine.md R135). -/
def execRun (s : State) : Host.Outcome State Fault Refusal :=
  .next ((s.setHashRegs (runSteps s.rule s.stepCount s.hashRegs)).finish .ok)

end Sys2Proof.Machine
end

