-- ==== Sys2Proof/Machine/Difficulty.lean ====
section
/-!
DEFINITION. The difficulty predicate, the nonce rendering and the preimage (41_hash_mining.md R161-R163).
-/

namespace Sys2Proof.Machine

/-- `meets(D, d)` (41_hash_mining.md R161): `d <= 64` and the first `4d` bits of `D` are 0. -/
def meets (D : Digest) (d : Nat) : Bool := decide (d ≤ 64) && (List.range (4 * d)).all fun k => !D.getMsbD k

/-- The ASCII byte of a decimal digit. -/
def digitByte (digit : Nat) : Byte := BitVec.ofNat 8 (0x30 + digit)

/-- The decimal digits of `n`, most significant first, at most `fuel` of them. -/
def decDigits : Nat → Nat → List Byte
  | 0, _ => []
  | fuel + 1, n => if n < 10 then [digitByte n] else decDigits fuel (n / 10) ++ [digitByte (n % 10)]

/-- `dec(n)` (41_hash_mining.md R162; log 15): ASCII decimal with no sign, no leading zeros and no terminator. A
32-bit number has at most 10 digits. -/
def dec (n : Word) : List Byte := decDigits 10 n.toNat

/-- `preimage()` with a given nonce (41_hash_mining.md R163): the prefix in MSG, then the nonce, cut at 64 bytes. -/
def State.preimageOf (s : State) (nonce : Word) : List Byte :=
  if 64 ≤ s.mlen.toNat then s.msg.toList else (s.msg.toList.take s.mlen.toNat ++ dec nonce).take 64

/-- `preimage()` (41_hash_mining.md R163): with the current NONCE. -/
def State.preimage (s : State) : List Byte := s.preimageOf s.nonce

end Sys2Proof.Machine
end

