-- ==== Sys2Proof/Machine/HashCommands.lean ====
section
/-!
DEFINITION. The engine transitions of HASH, CHECK, MINE, VERIFY and ABORT (41_hash_mining.md R166-R180).
-/

namespace Sys2Proof.Machine

/-- The CA hash of a byte string under the current RULE and STEPS (40_ca_engine.md R125). -/
def State.hashOf (s : State) (m : List Byte) : HashRegs Config.W := cahash Config.W m s.rule s.stepCount

/-- HASH (41_hash_mining.md R166). -/
def execHash (s : State) : Host.Outcome State Fault Refusal :=
  let h := s.hashOf s.msgBytes
  .next (State.finish .ok { s.setHashRegs h with digest := h.acc })

/-- CHECK (41_hash_mining.md R168): it tests EXP, not DIGEST. -/
def execCheck (s : State) : Host.Outcome State Fault Refusal :=
  .next (s.finish (if meets s.exp s.difficulty then .ok else .difficultyUnmet))

/-- The registers of an attempt before its verdict (41_hash_mining.md R171): the nonce is incremented before it is
hashed. -/
def State.mineHash (s : State) : State :=
  let t := { s with nonce := s.nonce + 1, attempts := s.attempts + 1 }
  t.setHashRegs (t.hashOf t.preimage)

/-- The verdict on the attempt whose registers stand in the state (41_hash_mining.md R171). A failed attempt leaves the
command latched, so BUSY stays 1. -/
def State.judgeAttempt (s : State) : State :=
  if meets s.acc s.difficulty then State.finish .ok { s with digest := s.acc } else s

/-- One attempt, one atomic transition (41_hash_mining.md R171). -/
def State.mineAttempt (s : State) : State := s.mineHash.judgeAttempt

/-- MINE: one MINE step (41_hash_mining.md R170), with the priority of 60_exceptions.md R206. -/
def execMine (s : State) : Host.Outcome State Fault Refusal :=
  .next <|
    if 64 < s.difficulty then s.finish .badDiff
    else if s.abortReq then s.finish .aborted
    else if s.maxatt ≠ 0 ∧ s.attempts = s.maxatt then s.finish .exhausted
    else if s.nonce = 0xFFFFFFFF#32 then s.finish .exhausted
    else s.mineAttempt

/-- The outcome of VERIFY for a recomputed digest: HASH_MISMATCH before DIFFICULTY_UNMET (41_hash_mining.md R175;
60_exceptions.md R206). -/
def State.verdict (s : State) (recomputed : Digest) : ResultCode :=
  if recomputed ≠ s.exp then .hashMismatch
  else if meets s.exp s.difficulty then .ok
  else .difficultyUnmet

/-- VERIFY (41_hash_mining.md R175): NONCE is used as it stands. -/
def execVerify (s : State) : Host.Outcome State Fault Refusal :=
  let h := s.hashOf s.preimage
  .next ((s.setHashRegs h).finish (s.verdict h.acc))

/-- ABORT accepted while idle (41_hash_mining.md R180). An ABORT word written while a command is busy is no engine
transition: it is handled by `State.cmdWrite`. -/
def execAbort (s : State) : Host.Outcome State Fault Refusal := .next (s.finish .ok)

end Sys2Proof.Machine
end

