-- ==== Sys2Proof/Machine/IllegalCommands.lean ====
section
/-!
DEFINITION. The engine transition of a word that decoded to ILLEGAL (41_hash_mining.md R182; 30_encoding.md R105): the
reserved opcodes and the words with a nonzero bit in 31:4. No register other than STATUS changes.
-/

namespace Sys2Proof.Machine

/-- The completion of an ILLEGAL word (41_hash_mining.md R182). -/
def illegalCompletion (s : State) : Host.Outcome State Fault Refusal := .next (s.finish .illegalCmd)

/-- Reserved opcode 0xB (30_encoding.md R105). -/
def execReservedB (s : State) : Host.Outcome State Fault Refusal := illegalCompletion s

/-- Reserved opcode 0xC (30_encoding.md R105). -/
def execReservedC (s : State) : Host.Outcome State Fault Refusal := illegalCompletion s

/-- Reserved opcode 0xD (30_encoding.md R105). -/
def execReservedD (s : State) : Host.Outcome State Fault Refusal := illegalCompletion s

/-- Reserved opcode 0xE (30_encoding.md R105). -/
def execReservedE (s : State) : Host.Outcome State Fault Refusal := illegalCompletion s

/-- Reserved opcode 0xF (30_encoding.md R105). -/
def execReservedF (s : State) : Host.Outcome State Fault Refusal := illegalCompletion s

/-- A word with a nonzero bit in 31:4 (30_encoding.md R105); which word it is makes no difference. -/
def execIllegal (_word : Word) (s : State) : Host.Outcome State Fault Refusal := illegalCompletion s

end Sys2Proof.Machine
end

