-- ==== Sys2Proof/Machine/Dispatch.lean ====
section
/-!
DEFINITION. The engine transition of the latched command (60_exceptions.md R202): one arm for each row of the opcode table.
-/

namespace Sys2Proof.Machine

/-- The engine transition of command `i` in state `s`. -/
def exec (i : Instr) (s : State) : Host.Outcome State Fault Refusal :=
  match i with
  | .nop => Sys2Proof.Machine.execNop s
  | .init => Sys2Proof.Machine.execInit s
  | .evolve => Sys2Proof.Machine.execEvolve s
  | .clracc => Sys2Proof.Machine.execClracc s
  | .absorb => Sys2Proof.Machine.execAbsorb s
  | .run => Sys2Proof.Machine.execRun s
  | .hash => Sys2Proof.Machine.execHash s
  | .check => Sys2Proof.Machine.execCheck s
  | .mine => Sys2Proof.Machine.execMine s
  | .verify => Sys2Proof.Machine.execVerify s
  | .abort => Sys2Proof.Machine.execAbort s
  | .reservedB => Sys2Proof.Machine.execReservedB s
  | .reservedC => Sys2Proof.Machine.execReservedC s
  | .reservedD => Sys2Proof.Machine.execReservedD s
  | .reservedE => Sys2Proof.Machine.execReservedE s
  | .reservedF => Sys2Proof.Machine.execReservedF s
  | .illegal word => Sys2Proof.Machine.execIllegal word s

end Sys2Proof.Machine
end

