-- ==== Sys2Proof/WellFormed.lean ====
section
/-!
DEFINITION. Which terms of `Instr` stand for a command word.
-/

namespace Sys2Proof

/-- The ILLEGAL row covers exactly the words with a nonzero bit in 31:4; every other word has a row of its own
(30_encoding.md R104, R105). The other constructors carry nothing to check. -/
def Instr.wf : Instr → Bool
  | .nop => true
  | .init => true
  | .evolve => true
  | .clracc => true
  | .absorb => true
  | .run => true
  | .hash => true
  | .check => true
  | .mine => true
  | .verify => true
  | .abort => true
  | .reservedB => true
  | .reservedC => true
  | .reservedD => true
  | .reservedE => true
  | .reservedF => true
  | .illegal word => word.extractLsb' 4 28 != 0#28

end Sys2Proof
end

