-- ==== Sys2Proof/Decode.lean ====
section
/-!
DEFINITION. The decoder of 30_encoding.md R104 and the encoder of R103, and the entry by which the host hands over a
word of spec/opcode_table.json.
-/

namespace Sys2Proof

/-- The opcode map of 30_encoding.md R103 with its reserved rows, for a word whose bits 31:4 are 0. -/
def decodeOp (op : BitVec 4) : Instr :=
  match op.toNat with
  | 0 => .nop
  | 1 => .init
  | 2 => .evolve
  | 3 => .clracc
  | 4 => .absorb
  | 5 => .run
  | 6 => .hash
  | 7 => .check
  | 8 => .mine
  | 9 => .verify
  | 10 => .abort
  | 11 => .reservedB
  | 12 => .reservedC
  | 13 => .reservedD
  | 14 => .reservedE
  | _ => .reservedF

/-- `decode` of 30_encoding.md R104: total on the 32-bit words. The spec's ILLEGAL is the five reserved rows and
`.illegal` together (log 4). -/
def decode (v : Word) : Instr :=
  if v.extractLsb' 4 28 = 0#28 then decodeOp (v.extractLsb' 0 4) else .illegal v

/-- The CMD word of a command (30_encoding.md R103). -/
def encode : Instr → Word
  | .nop => 0x00000000#32
  | .init => 0x00000001#32
  | .evolve => 0x00000002#32
  | .clracc => 0x00000003#32
  | .absorb => 0x00000004#32
  | .run => 0x00000005#32
  | .hash => 0x00000006#32
  | .check => 0x00000007#32
  | .mine => 0x00000008#32
  | .verify => 0x00000009#32
  | .abort => 0x0000000A#32
  | .reservedB => 0x0000000B#32
  | .reservedC => 0x0000000C#32
  | .reservedD => 0x0000000D#32
  | .reservedE => 0x0000000E#32
  | .reservedF => 0x0000000F#32
  | .illegal word => word

/-- Why a string of bits is no command word. -/
inductive DecodeError where
  /-- More than one 32-bit word: every command is exactly one (30_encoding.md R100, R106). Raised by `decodeBits`
  only; safe, since the bus carries nothing but words of 32 bits. -/
  | longerThanOneWord (nbits : Nat)
deriving DecidableEq, Repr

/-- The decoder on `nbits` bits, the bits of the word above them 0 (log 18). -/
def decodeBits (nbits w : Nat) : Except DecodeError Instr :=
  if nbits ≤ 32 then .ok (decode (BitVec.ofNat 32 (w % 2 ^ nbits))) else .error (.longerThanOneWord nbits)

/-- The instruction the decoder reads from an instruction whose bits are `w`. A command word travels on the 32-bit bus
as a number, so there is no byte order to choose (20_memory.md R74). -/
def decodeTableWord (nbits w : Nat) : Option Instr :=
  match decodeBits nbits w with
  | .ok i => some i
  | .error _ => none

/-- The command that a mnemonic of the host notation names: the eleven names of 30_encoding.md R103, in upper case and
with nothing after them (R110). -/
def commandOfMnemonic (name : String) : Option Instr :=
  [Instr.nop, .init, .evolve, .clracc, .absorb, .run, .hash, .check, .mine, .verify, .abort].find?
    fun i => i.mnemonic == name

end Sys2Proof
end

