-- ==== Sys2Proof/Machine/Window.lean ====
section
/-!
DEFINITION. The register window: its map (20_memory.md R76), and the packing of sequences into words (R72).
-/

namespace Sys2Proof.Machine

/-- What a word of the register window is (20_memory.md R76). -/
inductive Target where
  | id
  | ctrl
  | status
  | cmd
  | rule
  | steps
  | diff
  | mlen
  | nonce
  | maxatt
  | attempts
  /-- MSG word `j`: bytes 4j to 4j+3. -/
  | msg (j : Fin 16)
  /-- S word `j`: cells 32j to 32j+31. -/
  | cells (j : Fin 16)
  /-- ACC word `j`. -/
  | acc (j : Fin 8)
  /-- DIGEST word `j`. -/
  | digest (j : Fin 8)
  /-- EXP word `j`. -/
  | exp (j : Fin 8)
  /-- A reserved offset (R77). -/
  | reserved
deriving DecidableEq, Repr

/-- The register map by word number, the byte offset divided by 4 (20_memory.md R76). -/
def targetOfWord (n : Nat) : Target :=
  match n with
  | 0 => .id
  | 1 => .ctrl
  | 2 => .status
  | 3 => .cmd
  | 4 => .rule
  | 5 => .steps
  | 6 => .diff
  | 7 => .mlen
  | 8 => .nonce
  | 9 => .maxatt
  | 10 => .attempts
  | _ =>
    if n < 0x040 / 4 then .reserved
    else if n < 0x080 / 4 then .msg (Fin.ofNat 16 (n - 0x040 / 4))
    else if n < 0x0C0 / 4 then .cells (Fin.ofNat 16 (n - 0x080 / 4))
    else if n < 0x0E0 / 4 then .acc (Fin.ofNat 8 (n - 0x0C0 / 4))
    else if n < 0x100 / 4 then .digest (Fin.ofNat 8 (n - 0x0E0 / 4))
    else if n < 0x120 / 4 then .exp (Fin.ofNat 8 (n - 0x100 / 4))
    else .reserved

/-- What an access at a byte offset reaches. Bits 1:0 of the offset are ignored (20_memory.md R79). -/
def targetAt (addr : BitVec 12) : Target := targetOfWord ((addr &&& 0xFFC#12).toNat / 4)

/-- The byte offset of a register or array word (20_memory.md R76); `none` for the reserved offsets, which have no
name. -/
def Target.offset : Target → Option (BitVec 12)
  | .id => some 0x000
  | .ctrl => some 0x004
  | .status => some 0x008
  | .cmd => some 0x00C
  | .rule => some 0x010
  | .steps => some 0x014
  | .diff => some 0x018
  | .mlen => some 0x01C
  | .nonce => some 0x020
  | .maxatt => some 0x024
  | .attempts => some 0x028
  | .msg j => some (BitVec.ofNat 12 (0x040 + 4 * j))
  | .cells j => some (BitVec.ofNat 12 (0x080 + 4 * j))
  | .acc j => some (BitVec.ofNat 12 (0x0C0 + 4 * j))
  | .digest j => some (BitVec.ofNat 12 (0x0E0 + 4 * j))
  | .exp j => some (BitVec.ofNat 12 (0x100 + 4 * j))
  | .reserved => none

/-- The engine-written registers: they read as `draw()` while busy (20_memory.md R82). STATUS, which the engine writes
too, reads exactly at all times (10_state.md R33). -/
def Target.engineWritten : Target → Bool
  | .nonce => true
  | .attempts => true
  | .cells _ => true
  | .acc _ => true
  | .digest _ => true
  | .id => false
  | .ctrl => false
  | .status => false
  | .cmd => false
  | .rule => false
  | .steps => false
  | .diff => false
  | .mlen => false
  | .maxatt => false
  | .msg _ => false
  | .exp _ => false
  | .reserved => false

/-- Word `j` of a bit sequence: elements 32j to 32j+31, the first one most significant (20_memory.md R72). -/
def seqWord {n : Nat} (q : BitVec n) (j : Nat) : Word := q.extractLsb' (n - 32 * (j + 1)) 32

/-- The sequence with word `j` replaced: element 32j+t becomes bit 31-t of `v` (20_memory.md R85). -/
def setSeqWord {n : Nat} (q : BitVec n) (j : Nat) (v : Word) : BitVec n :=
  let at_ := n - 32 * (j + 1)
  (q &&& ~~~((BitVec.allOnes 32).setWidth n <<< at_)) ||| (v.setWidth n <<< at_)

/-- MSG word `j`: the lowest-numbered byte in the most significant lane (20_memory.md R72, R74). -/
def msgWord (m : Vector Byte 64) (j : Fin 16) : Word :=
  m[4 * j.val] ++ m[4 * j.val + 1] ++ m[4 * j.val + 2] ++ m[4 * j.val + 3]

/-- MSG with word `j` replaced: MSG[4j+u] becomes bits 31-8u to 24-8u of `v` (20_memory.md R85). -/
def setMsgWord (m : Vector Byte 64) (j : Fin 16) (v : Word) : Vector Byte 64 :=
  (((m.set (4 * j.val) (v.extractLsb' 24 8)).set (4 * j.val + 1) (v.extractLsb' 16 8)).set
    (4 * j.val + 2) (v.extractLsb' 8 8)).set (4 * j.val + 3) (v.extractLsb' 0 8)

/-- The word a register holds, zero-extended to 32 bits (20_memory.md R80). CMD and the reserved offsets hold
nothing and read 0 (R77, R80). -/
def State.windowWord (s : State) : Target → Word
  | .id => Config.idWord
  | .ctrl => flagWord s.ie
  | .status => s.statusWord
  | .cmd => 0
  | .rule => s.rule.setWidth 32
  | .steps => s.steps
  | .diff => s.diff.setWidth 32
  | .mlen => s.mlen.setWidth 32
  | .nonce => s.nonce
  | .maxatt => s.maxatt
  | .attempts => s.attempts
  | .msg j => msgWord s.msg j
  | .cells j => seqWord s.cells j
  | .acc j => seqWord s.acc j
  | .digest j => seqWord s.digest j
  | .exp j => seqWord s.exp j
  | .reserved => 0

end Sys2Proof.Machine
end

