-- ==== Sys2Proof/Machine/Ops.lean ====
section
/-!
DEFINITION. The shared operations: the host's reads and writes of the register window, the acceptance of a command, and
the reset event. A command's completion is `State.finish` (Machine/Flags.lean).
-/

namespace Sys2Proof.Machine

/-! ## Command writes -/

/-- Acceptance of a decoded word while idle (60_exceptions.md R201; 41_hash_mining.md R169). -/
def State.accept (i : Instr) (s : State) : State :=
  { s with
    op := some i
    done := false
    result := .none
    abortReq := false
    attempts := if i = .mine then 0 else s.attempts }

/-- An ABORT written while a MINE is busy (41_hash_mining.md R180). -/
def State.requestAbort (s : State) : State := { s with abortReq := true }

/-- Any other command word written while busy: dropped, with CERR (60_exceptions.md R203). -/
def State.dropCommand (s : State) : State := { s with cerr := true }

/-- A host write of `v` to CMD (60_exceptions.md R201, R203; 41_hash_mining.md R180). -/
def State.cmdWrite (v : Word) (s : State) : State :=
  match s.op with
  | none => s.accept (decode v)
  | some i => if v = 0x0000000A#32 ∧ i = .mine then s.requestAbort else s.dropCommand

/-! ## Host transactions -/

/-- A data or operand write while busy: dropped, with WERR (20_memory.md R88). -/
def State.dropWrite (s : State) : State := { s with werr := true }

/-- An operand or data write: `new` while idle, dropped while busy (20_memory.md R85, R88). -/
def State.operandWrite (s new : State) : State := if s.busy then s.dropWrite else new

/-- `MemWrite` at a place of the window (20_memory.md R84-R89). Read-only registers and reserved offsets ignore it
(R77, R89). -/
def State.writeTarget (t : Target) (v : Word) (s : State) : State :=
  match t with
  | .id => s
  | .ctrl => { s with ie := v.getLsbD 0 }
  | .status => s.clearStatus v
  | .cmd => s.cmdWrite v
  | .rule => s.operandWrite { s with rule := v.setWidth 8 }
  | .steps => s.operandWrite { s with steps := v }
  | .diff => s.operandWrite { s with diff := v.setWidth 8 }
  | .mlen => s.operandWrite { s with mlen := v.setWidth 16 }
  | .nonce => s.operandWrite { s with nonce := v }
  | .maxatt => s.operandWrite { s with maxatt := v }
  | .attempts => s
  | .msg j => s.operandWrite { s with msg := setMsgWord s.msg j v }
  | .cells j => s.operandWrite { s with cells := setSeqWord s.cells j v }
  | .acc _ => s
  | .digest _ => s
  | .exp j => s.operandWrite { s with exp := setSeqWord s.exp j v }
  | .reserved => s

/-- `MemRead` at a place of the window (20_memory.md R80): the exact word, or a fresh free word for an engine-written
register while busy (R82). No register changes (R81). -/
def State.readTarget (t : Target) (s : State) : State :=
  if s.busy && t.engineWritten then { s with rdata := some (Config.draw s.draws), draws := s.draws + 1 }
  else { s with rdata := some (s.windowWord t) }

/-- A host transaction (20_memory.md R71). -/
def State.transact (op : HostOp) (s : State) : State :=
  match op with
  | .read addr => s.readTarget (targetAt addr)
  | .write addr v => s.writeTarget (targetAt addr) v

/-! ## Reset -/

/-- The reset event (70_reset_and_hazards.md R240): every register takes its reset value and a command in progress is
abandoned. The model's own fields, the schedule and the draw counter, go on (log 1, log 5). -/
def State.resetEvent (s : State) : State := { State.reset with pending := s.pending, draws := s.draws }

/-! ## Ports -/

/-- The inputs of one clock cycle (20_memory.md R70). -/
structure Ports where
  rst : Bool
  sel : Bool
  we : Bool
  addr : BitVec 12
  wdata : Word
deriving DecidableEq, Repr

/-- The reset or the host transaction that a cycle's inputs present; reset takes priority over the bus
(70_reset_and_hazards.md R240, R242; log 16). -/
def Ports.event (p : Ports) : Option Event :=
  if p.rst then some .reset
  else if p.sel then some (.host (if p.we then .write p.addr p.wdata else .read p.addr))
  else none

/-- The triple `(we, offset, data)` of a host operation (30_encoding.md R108). -/
def HostOp.triple : HostOp → Bool × BitVec 12 × Option Word
  | .read addr => (false, addr, none)
  | .write addr v => (true, addr, some v)

/-- The port inputs that present a host operation (30_encoding.md R108; 20_memory.md R70); `wdata` is not looked at in
a read. -/
def HostOp.ports : HostOp → Ports
  | .read addr => { rst := false, sel := true, we := false, addr := addr, wdata := 0 }
  | .write addr v => { rst := false, sel := true, we := true, addr := addr, wdata := v }

end Sys2Proof.Machine
end

