-- ==== Sys2Proof/Machine/Engine.lean ====
section
/-!
DEFINITION. Which transition happens next, and the placing of a command for the host's questions. Step.lean only calls
what stands here.
-/

namespace Sys2Proof.Machine

/-- The next event. Where nothing is scheduled the engine has the turn: the weak fairness of 60_exceptions.md R202
(log 2). -/
def State.nextEvent (s : State) : Event := s.pending.headD .engine

/-- The state as a transition finds it: its event taken off the schedule, and no read under way (log 1, log 6). -/
def State.advance (s : State) : State := { s with pending := s.pending.tail, rdata := none }

/-- The engine's turn (60_exceptions.md R200, R202): the transition of the latched command, or nothing while idle. -/
def engineTurn (s : State) : Host.Outcome State Fault Refusal :=
  match s.op with
  | some i => exec i s
  | none => .next s

/-- One transition: a reset (70_reset_and_hazards.md R240), a host transaction (20_memory.md R71) or the engine's turn
(60_exceptions.md R202). Each is atomic (20_memory.md R90). -/
def deliver (e : Event) (s : State) : Host.Outcome State Fault Refusal :=
  match e with
  | .reset => .next s.resetEvent
  | .host op => .next (s.transact op)
  | .engine => engineTurn s

/-- The transition that `s` makes. -/
def transition (s : State) : Host.Outcome State Fault Refusal := deliver s.nextEvent s.advance

/-- The state in which command `i` has just been accepted (60_exceptions.md R201) and the engine has the next turn
(log 9). -/
def State.ready (i : Instr) (s : State) : State := { s.accept i with pending := .engine :: s.pending }

/-- `ready` for the command that a table word decodes to; the state itself where the word is no command word (log 18). -/
def State.readyWord (s : State) (nbits w : Nat) : State :=
  match decodeTableWord nbits w with
  | some i => s.ready i
  | none => s

end Sys2Proof.Machine
end

