-- ==== Sys2Proof/Machine/Step.lean ====
section
/-!
DEFINITION. The step function, and the placing of a command for the host's questions.
-/

namespace Sys2Proof.Machine

/-- One step: one transition of the interleaving of 60_exceptions.md R202. -/
def step (s : State) : Host.Outcome State Fault Refusal := transition s

/-- The block fetches nothing (20_memory.md R94): a command is latched by the CMD write that starts it. This is the
state in which the command has been accepted and the engine has the next turn, so that the next step runs it
(log 9). -/
def State.withFetchWord (s : State) (nbits w : Nat) : State := s.readyWord nbits w

end Sys2Proof.Machine
end

