-- ==== Sys2Proof/Machine/Reference.lean ====
section
/-!
DEFINITION. The spec's own pseudocode, cell by cell and bit by bit, which the obligations hold the machine against. No
meaning calls anything of this file.
-/

namespace Sys2Proof.Machine

/-- The sequence of length `w` with element `i` given by `f i` (00_scope.md R15). -/
def seqOf : (w : Nat) → (Nat → Bool) → BitVec w
  | 0, _ => 0#0
  | w + 1, f => (seqOf w f).concat (f w)

/-- `bits(m)` (00_scope.md R17): element `8k + t` is bit `7 - t` of byte `k`. -/
def bits (m : List Byte) : List Bool := m.flatMap fun b => (List.range 8).map fun t => b.getLsbD (7 - t)

/-- `init(m)` of 40_ca_engine.md R122, cell by cell. -/
def refInit (w : Nat) (m : List Byte) : Cells w := seqOf w fun c => if c < 8 * m.length then (bits m).getD c false else false

/-- The neighbourhood index of cell `i`, with a zero boundary (40_ca_engine.md R123). -/
def neighbourhood {w : Nat} (S : Cells w) (i : Nat) : Nat :=
  let left := if 0 < i then S.getMsbD (i - 1) else false
  let center := S.getMsbD i
  let right := if i < w - 1 then S.getMsbD (i + 1) else false
  4 * left.toNat + 2 * center.toNat + right.toNat

/-- `evolve` of 40_ca_engine.md R123, cell by cell. -/
def refEvolve {w : Nat} (S : Cells w) (rule : BitVec 8) : Cells w := seqOf w fun i => rule.getLsbD (neighbourhood S i)

/-- The accumulator with bit `b` XORed into position `p` (40_ca_engine.md R124). -/
def xorBit (acc : Digest) (p : Nat) (b : Bool) : Digest := seqOf 256 fun k => acc.getMsbD k ^^ (b && k == p)

/-- `absorb` of 40_ca_engine.md R124: the loop over `j`. -/
def refAbsorb {w : Nat} (h : HashRegs w) : HashRegs w :=
  { h with
    acc := (List.range w).foldl (fun a j => xorBit a ((h.pos.toNat + j) % 256) (h.cells.getMsbD j)) h.acc
    pos := BitVec.ofNat 8 ((h.pos.toNat + w) % 256) }

/-- The loop of 40_ca_engine.md R125 and R135 over the reference functions. -/
def refRun {w : Nat} (rule : BitVec 8) : Nat → HashRegs w → HashRegs w
  | 0, h => h
  | n + 1, h => refRun rule n (refAbsorb { h with cells := refEvolve h.cells rule })

/-- `cahash` of 40_ca_engine.md R125 over the reference functions. -/
def refHash (w : Nat) (m : List Byte) (rule : BitVec 8) (steps : Nat) : HashRegs w :=
  refRun rule steps { cells := refInit w m, acc := 0, pos := 0 }

/-- The states S_1 .. S_n after a start state (00_scope.md R21, run; 40_ca_engine.md R126). -/
def postStates {w : Nat} (rule : BitVec 8) : Nat → Cells w → List (Cells w)
  | 0, _ => []
  | n + 1, S => refEvolve S rule :: postStates rule n (refEvolve S rule)

/-- The source's bit stream `S_1 ++ S_2 ++ ... ++ S_n` (40_ca_engine.md R126). -/
def bitStream {w : Nat} (rule : BitVec 8) (steps : Nat) (S : Cells w) : List Bool :=
  (postStates rule steps S).flatMap fun T => (List.range w).map T.getMsbD

/-- The source's `compress_to_256` (40_ca_engine.md R124, R126): accumulator bit `k` is the exclusive-or of the stream
bits at positions congruent to `k` modulo 256. -/
def compress (stream : List Bool) : Digest :=
  seqOf 256 fun k => (List.range stream.length).foldl (fun x i => x ^^ (stream.getD i false && i % 256 == k)) false

/-- `digest_int(d)` (00_scope.md R18): the digest as an unsigned integer, bit 0 the most significant. -/
def digestInt (d : Digest) : Nat := (List.range 256).foldl (fun n k => n + (d.getMsbD k).toNat * 2 ^ (255 - k)) 0

/-- The value of hex digit `k` of a digest (00_scope.md R18). -/
def hexDigit (d : Digest) (k : Nat) : Nat :=
  8 * (d.getMsbD (4 * k)).toNat + 4 * (d.getMsbD (4 * k + 1)).toNat + 2 * (d.getMsbD (4 * k + 2)).toNat +
    (d.getMsbD (4 * k + 3)).toNat

/-- `hex(d)`, 64 lowercase hexadecimal characters (00_scope.md R18). -/
def hex (d : Digest) : String := String.ofList ((List.range 64).map fun k => Nat.digitChar (hexDigit d k))

/-- The difficulty target in the source's words (41_hash_mining.md R161): the first `d` hex characters are all '0'. -/
abbrev refMeets (D : Digest) (d : Nat) : Prop := d ≤ 64 ∧ ∀ k, k < d → hexDigit D k = 0

/-- The CA hash that a MINE attempt or VERIFY computes for a nonce (41_hash_mining.md R171, R175). -/
def State.refHashAt (s : State) (nonce : Word) : HashRegs Config.W :=
  refHash Config.W (s.preimageOf nonce) s.rule s.steps.toNat

/-- The bits that a host write keeps in an operand, data or control register while idle (20_memory.md R84); `none` for
what a write does not store to. -/
def Target.keptBits : Target → Option Word
  | .ctrl => some 0x00000001#32
  | .rule => some 0x000000FF#32
  | .steps => some 0xFFFFFFFF#32
  | .diff => some 0x000000FF#32
  | .mlen => some 0x0000FFFF#32
  | .nonce => some 0xFFFFFFFF#32
  | .maxatt => some 0xFFFFFFFF#32
  | .msg _ => some 0xFFFFFFFF#32
  | .cells _ => some 0xFFFFFFFF#32
  | .exp _ => some 0xFFFFFFFF#32
  | .id => none
  | .status => none
  | .cmd => none
  | .attempts => none
  | .acc _ => none
  | .digest _ => none
  | .reserved => none

/-- The number that a string of ASCII decimal digits spells. -/
def decValue (digits : List Byte) : Nat := digits.foldl (fun n b => 10 * n + (b.toNat - 0x30)) 0

end Sys2Proof.Machine
end

