-- ==== Sys2Proof/Machine/HostProgram.lean ====
section
/-!
DEFINITION. The host program notation (30_encoding.md R107-R109): what each line asks of the block, as events. A host program
is the host's and no state (10_state.md R57); its events are what `State.pending` delivers.
-/

namespace Sys2Proof.Machine

/-- A 256-bit array that RDD can read (30_encoding.md R109). -/
inductive DigestArray where
  | acc
  | digest
  | exp
deriving DecidableEq, Repr

/-- Word `j` of a 256-bit array. -/
def DigestArray.word : DigestArray → Fin 8 → Target
  | .acc, j => .acc j
  | .digest, j => .digest j
  | .exp, j => .exp j

/-- A line of a host program (30_encoding.md R107, R109; 95_test_vectors.md for `CMDW` and `ENGINE`). -/
inductive Line where
  /-- `WR <target>, <imm32>`. -/
  | wr (t : Target) (v : Word)
  /-- `RD <target>`. -/
  | rd (t : Target)
  /-- `CMD <mnemonic>`. -/
  | cmd (i : Instr)
  /-- `CMDW <word>`: a raw word to CMD. -/
  | cmdw (v : Word)
  /-- `POLL`, with `n` unsuccessful reads, each followed by one engine transition (log 17). -/
  | poll (n : Nat)
  /-- `WAITIRQ`, during which the engine makes `n` transitions (log 17). -/
  | waitirq (n : Nat)
  /-- `ACK`. -/
  | ack
  /-- `LDMSG "<bytes>"`. -/
  | ldmsg (bytes : List Byte)
  /-- `LDD EXP, <64 hex digits>`, the digits given as the 256-bit sequence they spell. -/
  | ldd (d : Digest)
  /-- `RDD <target>`. -/
  | rdd (a : DigestArray)
  /-- `ENGINE n`, a directive: `n` engine transitions. -/
  | engine (n : Nat)
deriving DecidableEq, Repr

/-- A write to a named place of the window; a reserved offset has no name and gives no operation. -/
def writeEvents (t : Target) (v : Word) : List Event :=
  match t.offset with
  | some a => [.host (.write a v)]
  | none => []

/-- A read of a named place of the window. -/
def readEvents (t : Target) : List Event :=
  match t.offset with
  | some a => [.host (.read a)]
  | none => []

/-- The word of LDMSG for bytes 4j to 4j+3, zero-padded (30_encoding.md R109). -/
def ldmsgWord (bytes : List Byte) (j : Nat) : Word :=
  bytes.getD (4 * j) 0 ++ bytes.getD (4 * j + 1) 0 ++ bytes.getD (4 * j + 2) 0 ++ bytes.getD (4 * j + 3) 0

/-- The events of one line (30_encoding.md R107, R109). -/
def Line.events : Line → List Event
  | .wr t v => writeEvents t v
  | .rd t => readEvents t
  | .cmd i => writeEvents .cmd (encode i)
  | .cmdw v => writeEvents .cmd v
  | .poll n => (List.replicate n (readEvents .status ++ [Event.engine])).flatten ++ readEvents .status
  | .waitirq n => List.replicate n .engine
  | .ack => writeEvents .status 0x0000000E#32
  | .ldmsg bytes =>
    ((List.range ((min bytes.length 64 + 3) / 4)).flatMap fun j =>
      writeEvents (.msg (Fin.ofNat 16 j)) (ldmsgWord bytes j)) ++ writeEvents .mlen (BitVec.ofNat 32 bytes.length)
  | .ldd d => (List.range 8).flatMap fun j => writeEvents (.exp (Fin.ofNat 8 j)) (seqWord d j)
  | .rdd a => (List.range 8).flatMap fun j => readEvents (a.word (Fin.ofNat 8 j))
  | .engine n => List.replicate n .engine

/-- The events of a program. -/
def programEvents (lines : List Line) : List Event := lines.flatMap Line.events

/-- The state with a program's events scheduled after those already there. -/
def State.withProgram (s : State) (lines : List Line) : State :=
  { s with pending := s.pending ++ programEvents lines }

end Sys2Proof.Machine
end

