-- ==== Sys2Proof/Safety.lean ====
section
/-!
DEFINITION. What counts as a good state and a good run, in the terms the statements use.
-/

namespace Sys2Proof.Machine

/-- The invariant of the block: what holds at reset and after every transition, whatever the host does. -/
structure State.Inv (s : State) : Prop where
  /-- OP is a command that some CMD word decodes to (10_state.md R53; 30_encoding.md R104). -/
  op_wf : ∀ i, s.op = some i → i.wf = true
  /-- POS is always 0 for `W = 512` (10_state.md R56). -/
  pos_zero : s.pos = 0
  /-- ABORTREQ is set only while a MINE is busy (10_state.md R54; 41_hash_mining.md R180). -/
  abort_mine : s.abortReq = true → s.op = some .mine
  /-- While busy, DONE is 0 and RESULT is NONE (60_exceptions.md R201, R204). -/
  busy_open : s.busy = true → s.done = false ∧ s.result = .none
  /-- DONE = 1 tells of a completion, which wrote a code other than NONE (60_exceptions.md R204, R205). -/
  done_result : s.done = true → s.result ≠ .none
  /-- While a MINE is busy, ATTEMPTS has not passed NONCE, so it cannot wrap (10_state.md R46). -/
  attempts_le_nonce : s.op = some .mine → s.attempts.toNat ≤ s.nonce.toNat
  /-- While a MINE with a cap is busy, ATTEMPTS has not passed MAXATT (10_state.md R44). -/
  attempts_le_cap : s.op = some .mine → s.maxatt ≠ 0 → s.attempts.toNat ≤ s.maxatt.toNat
  /-- A MINE with DIFF > 64 makes no attempt (41_hash_mining.md R170). -/
  bad_diff_idle : s.op = some .mine → 64 < s.diff.toNat → s.attempts = 0

/-- `k` steps of the machine from `s` lead to `t`. -/
def RunsTo (k : Nat) (s t : State) : Prop := Host.Core.run Sys2Proof.core k s = .next t

/-- The registers of the block, without the port and the model's own fields: what a host can come to observe. -/
def State.registers (s : State) : State := { s with rdata := none, pending := [], draws := 0 }

/-- How many attempts a MINE that is busy in `s` can still make: up to the cap, if there is one, and up to NONCE =
0xFFFFFFFF (41_hash_mining.md R170). -/
def State.attemptsLeft (s : State) : Nat :=
  if s.maxatt = 0 then 0xFFFFFFFF - s.nonce.toNat
  else min (s.maxatt.toNat - s.attempts.toNat) (0xFFFFFFFF - s.nonce.toNat)

/-- The nonce of the `k`-th attempt of a MINE that is busy in `s`, counted from 1 (41_hash_mining.md R171). -/
def State.attemptNonce (s : State) (k : Nat) : Word := s.nonce + BitVec.ofNat 32 k

end Sys2Proof.Machine
end

