-- ==== Sys2Proof/Certificates/Slice0/Obligations.lean ====
section
/-!
DEFINITION. The statements for the provers, from the numbered rules of spec/. A completion is spelled out field by field,
`{ s with … }`, so that an equation states the result and the frame: every register, the port and the schedule not
named in it are as before. `getMsbD i` is element `i` of a bit sequence (00_scope.md R15, R72).
-/

open Sys2Proof Sys2Proof.Machine

/-! ## Encoding -/

/-- 30_encoding.md R104: decoding the word of a well-formed command gives the command back, and the decoder, total on the
32-bit words, loses no bit of a word and answers only well-formed commands. -/
def Obligations.DecodeEncodeAgree : Prop :=
  (∀ i : Instr, i.wf = true → decode (encode i) = i) ∧
  ∀ v : Word, encode (decode v) = v ∧ (decode v).wf = true

/-- Sanity: words written out from the encoding of 30_encoding.md R101 and R103. -/
def Obligations.DecodeOfWrittenWords : Prop :=
  decode 0b00000000000000000000000000000000#32 = .nop ∧
  decode 0b00000000000000000000000000000010#32 = .evolve ∧
  decode 0b00000000000000000000000000000110#32 = .hash ∧
  decode 0b00000000000000000000000000001000#32 = .mine ∧
  decode 0b00000000000000000000000000001010#32 = .abort ∧
  decode 0b00000000000000000000000000001011#32 = .reservedB ∧
  decode 0b00010000000000000000000000001010#32 = .illegal 0x1000000A#32

/-- 41_hash_mining.md R182, for each of the six rows that are the spec's ILLEGAL, and for every word that
30_encoding.md R104 decodes to it: a nonzero bit in 31:4 or an OP above 0xA. -/
def Obligations.IllegalCompletion : Prop :=
  (∀ (i : Instr) (s : State),
    (i = .reservedB ∨ i = .reservedC ∨ i = .reservedD ∨ i = .reservedE ∨ i = .reservedF ∨ ∃ w, i = .illegal w) →
    exec i s = .next { s with result := .illegalCmd, done := true, op := none, abortReq := false }) ∧
  ∀ (v : Word) (s : State), 0xA < v.toNat →
    exec (decode v) s = .next { s with result := .illegalCmd, done := true, op := none, abortReq := false }

/-! ## The CA engine and the compressor -/

/-- 40_ca_engine.md R130, and 41_hash_mining.md R180 for an ABORT accepted while idle: they complete OK and change
nothing but STATUS. -/
def Obligations.NopAndIdleAbortComplete : Prop :=
  ∀ (i : Instr) (s : State), (i = .nop ∨ i = .abort) →
    exec i s = .next { s with result := .ok, done := true, op := none, abortReq := false }

/-- 40_ca_engine.md R131, R122: cell `i` becomes bit `i` of the effective message, most significant bit of each byte
first, and 0 past its end. -/
def Obligations.InitLoadsTheEffectiveMessage : Prop :=
  ∀ s : State, ∃ c : Cells 512,
    exec .init s = .next { s with cells := c, result := .ok, done := true, op := none, abortReq := false } ∧
    ∀ (i : Nat) (_ : i < 512),
      c.getMsbD i = if i < 8 * min s.mlen.toNat 64 then s.msg[i / 8].getLsbD (7 - i % 8) else false

/-- 40_ca_engine.md R132, R123: every cell becomes the rule-ROM entry that its pre-step neighbourhood selects, with a
zero boundary. -/
def Obligations.EvolveAppliesTheRuleRom : Prop :=
  ∀ s : State, ∃ c : Cells 512,
    exec .evolve s = .next { s with cells := c, result := .ok, done := true, op := none, abortReq := false } ∧
    ∀ i : Nat, i < 512 →
      c.getMsbD i = s.rule.getLsbD
        (4 * (if 0 < i then s.cells.getMsbD (i - 1) else false).toNat + 2 * (s.cells.getMsbD i).toNat +
          (if i < 511 then s.cells.getMsbD (i + 1) else false).toNat)

/-- 40_ca_engine.md R132, corner cases: RULE 204 is the identity, 240 moves every cell to the next higher index, 170 to
the next lower, 0 clears the state and 255 sets it. -/
def Obligations.EvolveOfTheShiftRules : Prop :=
  ∀ s : State, ∃ t : State, exec .evolve s = .next t ∧
    (s.rule = 204 → t.cells = s.cells) ∧
    (s.rule = 240 → ∀ i : Nat, i < 512 → t.cells.getMsbD i = if i = 0 then false else s.cells.getMsbD (i - 1)) ∧
    (s.rule = 170 → ∀ i : Nat, i < 512 → t.cells.getMsbD i = if i = 511 then false else s.cells.getMsbD (i + 1)) ∧
    (s.rule = 0 → t.cells = 0) ∧
    (s.rule = 255 → t.cells = BitVec.allOnes 512)

/-- 40_ca_engine.md R133. -/
def Obligations.ClraccClearsTheAccumulator : Prop :=
  ∀ s : State,
    exec .clracc s = .next { s with acc := 0, pos := 0, result := .ok, done := true, op := none, abortReq := false }

/-- 40_ca_engine.md R134 with R56: POS is kept, and from POS = 0 bit `k` of ACC takes in cells `k` and `k + 256`. -/
def Obligations.AbsorbFoldsBothHalves : Prop :=
  ∀ s : State, ∃ a : Digest,
    exec .absorb s = .next { s with acc := a, result := .ok, done := true, op := none, abortReq := false } ∧
    (s.pos = 0 → ∀ k : Nat, k < 256 →
      a.getMsbD k = (s.acc.getMsbD k ^^ (s.cells.getMsbD k ^^ s.cells.getMsbD (k + 256))))

/-- 40_ca_engine.md R124, for every width and every POS: the fold is the spec's loop over the cells, one bit at a
time. -/
def Obligations.AbsorbIsTheBitLoop : Prop :=
  ∀ (w : Nat) (h : HashRegs w), absorb h = refAbsorb h

/-- 40_ca_engine.md R134, corner case: absorbing the same S twice restores ACC, for every POS. -/
def Obligations.AbsorbTwiceRestoresAcc : Prop :=
  ∀ s : State, ∃ t u : State, exec .absorb s = .next t ∧ exec .absorb t = .next u ∧
    u = { s with result := .ok, done := true, op := none, abortReq := false }

/-- 40_ca_engine.md R135: RUN is the spec's loop over the cell-by-cell `evolve` and the bit-by-bit `absorb`. -/
def Obligations.RunIsTheReferenceLoop : Prop :=
  ∀ s : State,
    exec .run s = .next { s with
      cells := (refRun s.rule s.steps.toNat { cells := s.cells, acc := s.acc, pos := s.pos }).cells
      acc := (refRun s.rule s.steps.toNat { cells := s.cells, acc := s.acc, pos := s.pos }).acc
      pos := (refRun s.rule s.steps.toNat { cells := s.cells, acc := s.acc, pos := s.pos }).pos
      result := .ok, done := true, op := none, abortReq := false }

/-- 40_ca_engine.md R135, corner case: RUN with STEPS = a and then RUN with STEPS = b do what one RUN with STEPS = a + b
does. -/
def Obligations.RunOfStepsAdd : Prop :=
  ∀ (s : State) (a b : Word), a.toNat + b.toNat < 2 ^ 32 → ∃ t u : State,
    exec .run { s with steps := a } = .next t ∧ exec .run { t with steps := b } = .next u ∧
    exec .run { s with steps := a + b } = .next { u with steps := a + b }

/-- 40_ca_engine.md R126, for every width: absorbing the post-step states one by one from POS = 0 gives what the
source's fold of the whole bit stream gives. -/
def Obligations.AbsorbingStatesFoldsTheStream : Prop :=
  ∀ (w : Nat) (rule : BitVec 8) (n : Nat) (S : Cells w),
    (runSteps rule n { cells := S, acc := 0, pos := 0 }).acc = compress (bitStream rule n S)

/-- 40_ca_engine.md R129, first sentence: after `t` steps cell `i` depends only on the initial cells within `t` of it. -/
def Obligations.CellLightCone : Prop :=
  ∀ (w : Nat) (rule : BitVec 8) (t : Nat) (h h' : HashRegs w) (i : Nat), i < w →
    (∀ j : Nat, j < w → i ≤ j + t → j ≤ i + t → h.cells.getMsbD j = h'.cells.getMsbD j) →
    (runSteps rule t h).cells.getMsbD i = (runSteps rule t h').cells.getMsbD i

/-- 40_ca_engine.md R129: digest bit `k` of an `n`-step hash depends only on the initial cells within `n` of `k` and of
`k + 256`. -/
def Obligations.DigestLightCone : Prop :=
  ∀ (rule : BitVec 8) (n : Nat) (S S' : Cells 512) (k : Nat), k < 256 →
    (∀ j : Nat, j < 512 → k ≤ j + n ∧ j ≤ k + n ∨ k + 256 ≤ j + n ∧ j ≤ k + 256 + n → S.getMsbD j = S'.getMsbD j) →
    (runSteps rule n { cells := S, acc := 0, pos := 0 }).acc.getMsbD k =
      (runSteps rule n { cells := S', acc := 0, pos := 0 }).acc.getMsbD k

/-! ## The CA hash -/

/-- 41_hash_mining.md R166 with 40_ca_engine.md R121, R125: HASH leaves the spec's `cahash` of the effective message in
S, ACC and POS, and its ACC in DIGEST. CLRACC, INIT and RUN leave the same S, ACC and POS (40_ca_engine.md R135). -/
def Obligations.HashLeavesTheCaHash : Prop :=
  ∀ s : State, ∃ h : HashRegs 512,
    h = refHash 512 (s.msg.toList.take (min s.mlen.toNat 64)) s.rule s.steps.toNat ∧
    exec .hash s = .next { s with
      cells := h.cells, acc := h.acc, pos := h.pos, digest := h.acc
      result := .ok, done := true, op := none, abortReq := false } ∧
    ∃ t u : State, exec .clracc s = .next t ∧ exec .init t = .next u ∧
      exec .run u = .next { s with
        cells := h.cells, acc := h.acc, pos := h.pos, result := .ok, done := true, op := none, abortReq := false }

/-- 41_hash_mining.md R167. -/
def Obligations.HashIsDeterminedByTheEffectiveMessage : Prop :=
  ∀ s s' : State, min s.mlen.toNat 64 = min s'.mlen.toNat 64 → s.rule = s'.rule → s.steps = s'.steps →
    (∀ (k : Nat) (_ : k < 64), k < min s.mlen.toNat 64 → s.msg[k] = s'.msg[k]) →
    ∃ t t' : State, exec .hash s = .next t ∧ exec .hash s' = .next t' ∧ t.digest = t'.digest ∧ t.cells = t'.cells

/-- 41_hash_mining.md R166, corner case MLEN = 0 (90_conflicts.md C8): DIGEST is 0 for every STEPS when RULE[0] = 0, and
when RULE[0] = 1 and RULE[3], RULE[6] and RULE[7] are all equal. -/
def Obligations.HashOfTheEmptyMessage : Prop :=
  ∀ s : State, s.mlen = 0 → ∃ t : State, exec .hash s = .next t ∧
    (s.rule.getLsbD 0 = false → t.digest = 0 ∧ t.cells = 0) ∧
    (s.rule.getLsbD 0 = true → s.rule.getLsbD 3 = s.rule.getLsbD 6 → s.rule.getLsbD 6 = s.rule.getLsbD 7 →
      t.digest = 0 ∧ (t.cells = 0 ∨ t.cells = BitVec.allOnes 512))

/-- 40_ca_engine.md R125 and 70_reset_and_hazards.md R246: with STEPS = 0 the digest is 0 and S is the loaded message; with
RULE = 0 and STEPS at least 1 both are 0. -/
def Obligations.HashOfNoStepsAndOfRuleZero : Prop :=
  ∀ s : State, ∃ t : State, exec .hash s = .next t ∧
    (s.steps = 0 → t.digest = 0 ∧ t.cells = refInit 512 (s.msg.toList.take (min s.mlen.toNat 64))) ∧
    (s.steps ≠ 0 → s.rule = 0 → t.digest = 0 ∧ t.cells = 0)

/-! ## Difficulty, nonce and preimage -/

/-- 41_hash_mining.md R161: the predicate by bits, by hex digits, by hex characters and as a number. -/
def Obligations.MeetsInItsForms : Prop :=
  ∀ (D : Digest) (d : Nat),
    (meets D d = true ↔ d ≤ 64 ∧ ∀ k : Nat, k < 4 * d → D.getMsbD k = false) ∧
    (meets D d = true ↔ refMeets D d) ∧
    (d ≤ 64 → (meets D d = true ↔ (hex D).toList.take d = List.replicate d '0')) ∧
    (d ≤ 64 → (meets D d = true ↔ digestInt D < 2 ^ (256 - 4 * d)))

/-- 20_memory.md R73: the hex rendering is the 8-digit renderings of the words, most significant digit first. -/
def Obligations.DigestTextOfWords : Prop :=
  ∀ d : Digest, (hex d).toList = (List.range 8).flatMap fun j => (List.range 8).map fun t =>
    Nat.digitChar ((seqWord d j).toNat / 16 ^ (7 - t) % 16)

/-- 41_hash_mining.md R162: `dec(n)` spells `n` in ASCII digits, with no leading zero, in 1 to 10 bytes. The rendering
is the spec's own, from general knowledge (93_implementation_defined.md I3; log 15). -/
def Obligations.DecSpellsTheNonce : Prop :=
  ∀ n : Word, decValue (dec n) = n.toNat ∧ (∀ b ∈ dec n, 0x30 ≤ b.toNat ∧ b.toNat ≤ 0x39) ∧
    1 ≤ (dec n).length ∧ (dec n).length ≤ 10 ∧ ((dec n).head? = some 0x30#8 → dec n = [0x30#8])

/-- 41_hash_mining.md R163: the prefix of MLEN bytes, then the nonce, cut at 64 bytes. -/
def Obligations.PreimageIsPrefixThenNonce : Prop :=
  ∀ s : State,
    (64 ≤ s.mlen.toNat → s.preimage = s.msg.toList) ∧
    (s.mlen.toNat < 64 →
      s.preimage.length = min 64 (s.mlen.toNat + (dec s.nonce).length) ∧
      (∀ k : Nat, k < s.mlen.toNat → s.preimage[k]? = s.msg[k]?) ∧
      (∀ k : Nat, s.mlen.toNat + k < 64 → s.preimage[s.mlen.toNat + k]? = (dec s.nonce)[k]?))

/-- 70_reset_and_hazards.md R255: up to MLEN = 54 different nonces are hashed as different preimages; from MLEN = 64 on
the nonce is not hashed; in between, nonces whose first 64 - MLEN digits agree give the same preimage. -/
def Obligations.NonceInTheMessageWindow : Prop :=
  ∀ (s : State) (n n' : Word),
    (s.mlen.toNat ≤ 54 → s.preimageOf n = s.preimageOf n' → n = n') ∧
    (64 ≤ s.mlen.toNat → s.preimageOf n = s.preimageOf n') ∧
    ((dec n).take (64 - s.mlen.toNat) = (dec n').take (64 - s.mlen.toNat) → s.preimageOf n = s.preimageOf n')

/-! ## CHECK, MINE, VERIFY, ABORT -/

/-- 41_hash_mining.md R168: CHECK tells whether EXP begins with DIFF hex digits '0', and changes nothing but STATUS. -/
def Obligations.CheckTestsExp : Prop :=
  ∀ s : State,
    exec .check s = .next { s with
      result := if refMeets s.exp s.diff.toNat then .ok else .difficultyUnmet
      done := true, op := none, abortReq := false }

/-- 41_hash_mining.md R170: the four checks that end a MINE step without an attempt, in their order. -/
def Obligations.MineStopsInPriorityOrder : Prop :=
  ∀ s : State,
    (64 < s.diff.toNat →
      exec .mine s = .next { s with result := .badDiff, done := true, op := none, abortReq := false }) ∧
    (s.diff.toNat ≤ 64 → s.abortReq = true →
      exec .mine s = .next { s with result := .aborted, done := true, op := none, abortReq := false }) ∧
    (s.diff.toNat ≤ 64 → s.abortReq = false → s.maxatt ≠ 0 → s.attempts = s.maxatt →
      exec .mine s = .next { s with result := .exhausted, done := true, op := none, abortReq := false }) ∧
    (s.diff.toNat ≤ 64 → s.abortReq = false → (s.maxatt = 0 ∨ s.attempts ≠ s.maxatt) → s.nonce = 0xFFFFFFFF#32 →
      exec .mine s = .next { s with result := .exhausted, done := true, op := none, abortReq := false })

/-- 41_hash_mining.md R171: an attempt hashes the incremented nonce; it ends OK with DIGEST written if the digest meets
the target, and otherwise leaves the MINE busy. NONCE does not wrap. -/
def Obligations.MineAttempt : Prop :=
  ∀ s : State, s.diff.toNat ≤ 64 → s.abortReq = false → (s.maxatt = 0 ∨ s.attempts ≠ s.maxatt) →
    s.nonce ≠ 0xFFFFFFFF#32 → ∃ h : HashRegs 512, h = s.refHashAt (s.nonce + 1) ∧
      (s.nonce + 1).toNat = s.nonce.toNat + 1 ∧
      (refMeets h.acc s.diff.toNat →
        exec .mine s = .next { s with
          nonce := s.nonce + 1, attempts := s.attempts + 1, cells := h.cells, acc := h.acc, pos := h.pos
          digest := h.acc, result := .ok, done := true, op := none, abortReq := false }) ∧
      (¬ refMeets h.acc s.diff.toNat →
        exec .mine s = .next { s with
          nonce := s.nonce + 1, attempts := s.attempts + 1, cells := h.cells, acc := h.acc, pos := h.pos })

/-- 41_hash_mining.md R171, R172 (the row OK), over a whole MINE: left to itself (nothing scheduled: log 2), a MINE that is
busy finds the first nonce that meets the target, in as many transitions as it makes attempts. -/
def Obligations.MineFindsTheFirstNonce : Prop :=
  ∀ (s : State) (k : Nat), s.Inv → s.op = some .mine → s.pending = [] → s.abortReq = false → s.diff.toNat ≤ 64 →
    1 ≤ k → k ≤ s.attemptsLeft → refMeets (s.refHashAt (s.attemptNonce k)).acc s.diff.toNat →
    (∀ j : Nat, 1 ≤ j → j < k → ¬ refMeets (s.refHashAt (s.attemptNonce j)).acc s.diff.toNat) →
    RunsTo k s { s with
      nonce := s.attemptNonce k, attempts := s.attempts + BitVec.ofNat 32 k
      cells := (s.refHashAt (s.attemptNonce k)).cells, acc := (s.refHashAt (s.attemptNonce k)).acc
      pos := (s.refHashAt (s.attemptNonce k)).pos, digest := (s.refHashAt (s.attemptNonce k)).acc
      result := .ok, done := true, op := none, abortReq := false, rdata := none }

/-- 41_hash_mining.md R172 (the row EXHAUSTED), over a whole MINE: if none of the attempts it may make succeeds, a MINE
left to itself (log 2) makes them all and ends EXHAUSTED, with the last nonce tried, the last attempt's S and ACC, and DIGEST
unchanged. -/
def Obligations.MineExhaustsItsAttempts : Prop :=
  ∀ (s : State), s.Inv → s.op = some .mine → s.pending = [] → s.abortReq = false → s.diff.toNat ≤ 64 →
    (∀ j : Nat, 1 ≤ j → j ≤ s.attemptsLeft → ¬ refMeets (s.refHashAt (s.attemptNonce j)).acc s.diff.toNat) →
    ∃ h : HashRegs 512,
      (s.attemptsLeft = 0 → h = { cells := s.cells, acc := s.acc, pos := s.pos }) ∧
      (s.attemptsLeft ≠ 0 → h = s.refHashAt (s.attemptNonce s.attemptsLeft)) ∧
      RunsTo (s.attemptsLeft + 1) s { s with
        nonce := s.attemptNonce s.attemptsLeft, attempts := s.attempts + BitVec.ofNat 32 s.attemptsLeft
        cells := h.cells, acc := h.acc, pos := h.pos
        result := .exhausted, done := true, op := none, abortReq := false, rdata := none }

/-- 41_hash_mining.md R173, 70_reset_and_hazards.md R254: a MINE left to itself (log 2) ends, within one transition more
than the attempts it may make. -/
def Obligations.MineEndsWithinItsAttempts : Prop :=
  ∀ s : State, s.Inv → s.op = some .mine → s.pending = [] →
    ∃ (k : Nat) (t : State), k ≤ s.attemptsLeft + 1 ∧ RunsTo k s t ∧ t.op = none ∧ t.done = true

/-- 41_hash_mining.md R175: VERIFY recomputes the hash at NONCE as it stands; HASH_MISMATCH comes before
DIFFICULTY_UNMET; only S, ACC, POS and STATUS change. -/
def Obligations.VerifyOutcome : Prop :=
  ∀ s : State, ∃ h : HashRegs 512, h = s.refHashAt s.nonce ∧
    exec .verify s = .next { s with
      cells := h.cells, acc := h.acc, pos := h.pos
      result := if h.acc ≠ s.exp then .hashMismatch else if refMeets s.exp s.diff.toNat then .ok else .difficultyUnmet
      done := true, op := none, abortReq := false }

/-- 41_hash_mining.md R171, R175: with DIGEST copied to EXP, VERIFY confirms what a MINE that just ended OK has found. -/
def Obligations.VerifyConfirmsAMine : Prop :=
  ∀ s t : State, s.op = some .mine → exec .mine s = .next t → t.op = none → t.result = .ok →
    exec .verify { t with exp := t.digest } = .next { t with exp := t.digest }

/-- 41_hash_mining.md R176, 90_conflicts.md C3: VERIFY cannot tell two nonces apart whose digits inside the 64-byte
window agree. -/
def Obligations.VerifyMissesAnUnhashedNonce : Prop :=
  ∀ (s : State) (n n' : Word), (dec n).take (64 - s.mlen.toNat) = (dec n').take (64 - s.mlen.toNat) →
    ∃ t : State, exec .verify { s with nonce := n } = .next { t with nonce := n } ∧
      exec .verify { s with nonce := n' } = .next { t with nonce := n' }

/-- 41_hash_mining.md R180: an ABORT written while a MINE is busy sets ABORTREQ and nothing else, a second one changes
nothing, and the next MINE step ends ABORTED with NONCE, ATTEMPTS, S, ACC and DIGEST as they are. -/
def Obligations.AbortEndsAMine : Prop :=
  ∀ s : State, s.op = some .mine →
    s.transact (.write 0x00C#12 0x0000000A#32) = { s with abortReq := true } ∧
    (s.abortReq = true → s.transact (.write 0x00C#12 0x0000000A#32) = s) ∧
    (s.diff.toNat ≤ 64 → exec .mine (s.transact (.write 0x00C#12 0x0000000A#32)) =
      .next { s with result := .aborted, done := true, op := none, abortReq := false })

/-! ## The command life cycle -/

/-- 60_exceptions.md R201, 41_hash_mining.md R169: a CMD write while idle is accepted in that transition. -/
def Obligations.CommandWriteIsAccepted : Prop :=
  ∀ (s : State) (v : Word), s.op = none →
    s.transact (.write 0x00C#12 v) = { s with
      op := some (decode v), done := false, result := .none, abortReq := false
      attempts := if decode v = .mine then 0 else s.attempts }

/-- 60_exceptions.md R203: a CMD write while busy sets ABORTREQ if it is ABORT and a MINE is busy, and otherwise sets
CERR; nothing else changes. -/
def Obligations.CommandWriteWhileBusy : Prop :=
  ∀ (s : State) (v : Word) (i : Instr), s.op = some i →
    (v = 0x0000000A#32 ∧ i = .mine → s.transact (.write 0x00C#12 v) = { s with abortReq := true }) ∧
    (¬ (v = 0x0000000A#32 ∧ i = .mine) → s.transact (.write 0x00C#12 v) = { s with cerr := true })

/-- 60_exceptions.md R202: on the engine's turn a step is the engine transition of the latched command; the step itself
takes the event off the schedule and ends any read (log 1, log 6). `withFetchWord` sets that up for a table word, and
a CMD write while idle does so for the word written. -/
def Obligations.StepRunsTheLatchedCommand : Prop :=
  (∀ (s : State) (i : Instr), s.nextEvent = .engine → s.op = some i →
    step s = exec i { s with pending := s.pending.tail, rdata := none }) ∧
  (∀ (s : State) (nbits w : Nat) (i : Instr), decodeTableWord nbits w = some i →
    step (s.withFetchWord nbits w) = exec i { s with
      op := some i, done := false, result := .none, abortReq := false
      attempts := if i = .mine then 0 else s.attempts, rdata := none }) ∧
  (∀ (s : State) (v : Word) (rest : List Event), s.op = none →
    s.pending = .host (.write 0x00C#12 v) :: .engine :: rest → ∃ t : State, step s = .next t ∧
      step t = exec (decode v) { s with
        op := some (decode v), done := false, result := .none, abortReq := false
        attempts := if decode v = .mine then 0 else s.attempts, rdata := none, pending := rest })

/-- 20_memory.md R71, 60_exceptions.md R207: no transition faults and no command is refused. 60_exceptions.md R217, R202
and 20_memory.md R90: the engine's turn while idle leaves every register as it is; that such a turn is a step at all, and
that the step takes the event off the schedule and ends any read, is the model's choice (log 1, log 2, log 6). -/
def Obligations.EveryStepAnswersNext : Prop :=
  (∀ s : State, ∃ t : State, step s = .next t) ∧
  ∀ s : State, s.nextEvent = .engine → s.op = none → step s = .next { s with pending := s.pending.tail, rdata := none }

/-- 60_exceptions.md R202, R204: every command but MINE completes in one engine transition, which sets DONE, writes an
outcome code, drops BUSY and clears ABORTREQ. -/
def Obligations.OtherCommandsCompleteInOneTransition : Prop :=
  ∀ (i : Instr) (s : State), i ≠ .mine → ∃ t : State, exec i s = .next t ∧
    t.op = none ∧ t.done = true ∧ t.result ≠ .none ∧ t.abortReq = false

/-- 10_state.md R30, 60_exceptions.md R207: no engine transition changes what is not engine-written: the registers of
that kind, and every word of the window outside STATUS, NONCE, ATTEMPTS, S, ACC and DIGEST. -/
def Obligations.EngineWritesOnlyItsRegisters : Prop :=
  ∀ (i : Instr) (s t : State), exec i s = .next t →
    (t.ie = s.ie ∧ t.cerr = s.cerr ∧ t.werr = s.werr ∧ t.rule = s.rule ∧ t.steps = s.steps ∧ t.diff = s.diff ∧
      t.mlen = s.mlen ∧ t.maxatt = s.maxatt ∧ t.msg = s.msg ∧ t.exp = s.exp ∧ t.rdata = s.rdata ∧
      t.pending = s.pending ∧ t.draws = s.draws) ∧
    (∀ p : Target, p.engineWritten = false → p ≠ .status → t.windowWord p = s.windowWord p) ∧
    (i ≠ .mine → t.nonce = s.nonce ∧ t.attempts = s.attempts)

/-- 10_state.md R50: DIGEST changes only by HASH and by a MINE attempt that meets the target, and then it is the new
ACC. -/
def Obligations.DigestIsWrittenOnlyBySuccess : Prop :=
  ∀ (i : Instr) (s t : State), exec i s = .next t → t.digest ≠ s.digest →
    t.digest = t.acc ∧ t.result = .ok ∧ (i = .hash ∨ i = .mine ∧ refMeets t.digest s.diff.toNat)

/-- 20_memory.md R88, R93: while a command is busy, no step but a reset changes an operand register that the engine does
not write; which event a step delivers is the model's schedule (log 1). -/
def Obligations.OperandsAreFixedWhileBusy : Prop :=
  ∀ s t : State, s.busy = true → s.nextEvent ≠ .reset → step s = .next t →
    t.rule = s.rule ∧ t.steps = s.steps ∧ t.diff = s.diff ∧ t.mlen = s.mlen ∧ t.maxatt = s.maxatt ∧
      t.msg = s.msg ∧ t.exp = s.exp

/-- 60_exceptions.md R212: when a STATUS write, or a CMD write other than an accepted ABORT, comes just before the
transition that completes a command (`c` is what that transition gives without the write), the completion is not lost:
DONE ends at 1, and the write has had its effect on CERR and WERR. The order is given by the model's schedule (log 1). -/
def Obligations.WriteThenCompletionLosesNothing : Prop :=
  ∀ (s c : State) (i : Instr) (v : Word) (rest : List Event), s.op = some i →
    exec i s.advance.advance = .next c → c.op = none → c.done = true ∧
    (s.pending = .host (.write 0x008#12 v) :: .engine :: rest → ∃ t : State, step s = .next t ∧
      step t = .next { c with
        cerr := if v.getLsbD 2 then false else s.cerr
        werr := if v.getLsbD 3 then false else s.werr }) ∧
    (¬ (v = 0x0000000A#32 ∧ i = .mine) → s.pending = .host (.write 0x00C#12 v) :: .engine :: rest →
      ∃ t : State, step s = .next t ∧ step t = .next { c with cerr := true })

/-! ## The register window -/

/-- 20_memory.md R76, 10_state.md R30: the offset of every named place reaches that place and is a word offset. -/
def Obligations.RegisterMapRoundTrip : Prop :=
  ∀ (p : Target) (a : BitVec 12), p.offset = some a → targetAt a = p ∧ a.toNat % 4 = 0

/-- 20_memory.md R79: bits 1:0 of the offset are ignored, and no access faults. The second clause says so of the model's
form of delivery, in which the step takes the event off the schedule (log 1) and ends any read under way (log 6). -/
def Obligations.LowAddressBitsAreIgnored : Prop :=
  (∀ (s : State) (addr : BitVec 12) (v : Word),
    s.transact (.read addr) = s.transact (.read (addr &&& 0xFFC#12)) ∧
    s.transact (.write addr v) = s.transact (.write (addr &&& 0xFFC#12) v)) ∧
  ∀ (s : State) (op : HostOp) (rest : List Event), s.pending = .host op :: rest →
    step s = .next (s.advance.transact op)

/-- 20_memory.md R84, R85: while idle, a write to an operand, data or control register leaves exactly the kept bits
there, and every other word of the window as it was. -/
def Obligations.WriteThenReadKeepsTheField : Prop :=
  ∀ (s : State) (p : Target) (v kept : Word), s.busy = false → p.keptBits = some kept →
    (s.writeTarget p v).windowWord p = v &&& kept ∧
    ∀ q : Target, q ≠ p → (s.writeTarget p v).windowWord q = s.windowWord q

/-- 20_memory.md R85, R72: while idle, a write to S or EXP word `j` sets element 32j+t to bit 31-t, and a write to MSG
word `j` sets byte 4j+u to bits 31-8u to 24-8u; the other elements stay. -/
def Obligations.ArrayWritesAreMsbFirst : Prop :=
  ∀ (s : State) (v : Word), s.busy = false →
    (∀ (j : Fin 16) (i : Nat), i < 512 → (s.writeTarget (.cells j) v).cells.getMsbD i =
      if i / 32 = j.val then v.getLsbD (31 - i % 32) else s.cells.getMsbD i) ∧
    (∀ (j : Fin 8) (i : Nat), i < 256 → (s.writeTarget (.exp j) v).exp.getMsbD i =
      if i / 32 = j.val then v.getLsbD (31 - i % 32) else s.exp.getMsbD i) ∧
    (∀ (j : Fin 16) (i : Nat) (_ : i < 64), (s.writeTarget (.msg j) v).msg[i] =
      if i / 4 = j.val then v.extractLsb' (24 - 8 * (i % 4)) 8 else s.msg[i])

/-- 20_memory.md R88: while busy, a write to an operand or data register changes nothing except WERR. -/
def Obligations.DroppedWritesSetWerr : Prop :=
  ∀ (s : State) (addr : BitVec 12) (v : Word) (a : Nat), a = (addr &&& 0xFFC#12).toNat → s.busy = true →
    (0x010 ≤ a ∧ a ≤ 0x024 ∨ 0x040 ≤ a ∧ a < 0x0C0 ∨ 0x100 ≤ a ∧ a < 0x120) →
    s.transact (.write addr v) = { s with werr := true }

/-- 20_memory.md R77, R89: a write to ID, ATTEMPTS, ACC, DIGEST or a reserved offset changes nothing at any time, and a
reserved offset reads 0. -/
def Obligations.IgnoredWrites : Prop :=
  ∀ (s : State) (addr : BitVec 12) (v : Word) (a : Nat), a = (addr &&& 0xFFC#12).toNat →
    ((a = 0x000 ∨ 0x028 ≤ a ∧ a < 0x040 ∨ 0x0C0 ≤ a ∧ a < 0x100 ∨ 0x120 ≤ a) →
      s.transact (.write addr v) = s) ∧
    ((0x02C ≤ a ∧ a < 0x040 ∨ 0x120 ≤ a) → s.transact (.read addr) = { s with rdata := some 0 })

/-- 20_memory.md R82: while busy, a read of NONCE, ATTEMPTS, S, ACC or DIGEST returns the next free word, whatever it
is, and takes a fresh one each time (the model's form of `draw()`, log 5). -/
def Obligations.BusyReadsAreFree : Prop :=
  ∀ (s : State) (addr : BitVec 12) (a : Nat), a = (addr &&& 0xFFC#12).toNat → s.busy = true →
    (a = 0x020 ∨ a = 0x028 ∨ 0x080 ≤ a ∧ a < 0x100) →
    s.transact (.read addr) = { s with rdata := some (Config.draw s.draws), draws := s.draws + 1 }

/-- 20_memory.md R80, R83: the exact reads. Those of the first group hold at all times, those of the second while
idle. -/
def Obligations.ExactReads : Prop :=
  ∀ s : State,
    (s.transact (.read 0x000#12)).rdata = some 0x43414801#32 ∧
    (s.transact (.read 0x004#12)).rdata = some (if s.ie then 1 else 0) ∧
    (s.transact (.read 0x00C#12)).rdata = some 0 ∧
    (s.transact (.read 0x010#12)).rdata = some (s.rule.setWidth 32) ∧
    (s.transact (.read 0x014#12)).rdata = some s.steps ∧
    (s.transact (.read 0x018#12)).rdata = some (s.diff.setWidth 32) ∧
    (s.transact (.read 0x01C#12)).rdata = some (s.mlen.setWidth 32) ∧
    (s.transact (.read 0x024#12)).rdata = some s.maxatt ∧
    (∀ (j : Nat) (_ : j < 16), (s.transact (.read (BitVec.ofNat 12 (0x040 + 4 * j)))).rdata =
      some (s.msg[4 * j] ++ s.msg[4 * j + 1] ++ s.msg[4 * j + 2] ++ s.msg[4 * j + 3])) ∧
    (∀ j : Nat, j < 8 → ∃ v : Word, (s.transact (.read (BitVec.ofNat 12 (0x100 + 4 * j)))).rdata = some v ∧
      ∀ t : Nat, t < 32 → v.getLsbD (31 - t) = s.exp.getMsbD (32 * j + t)) ∧
    (s.busy = false →
      (s.transact (.read 0x020#12)).rdata = some s.nonce ∧
      (s.transact (.read 0x028#12)).rdata = some s.attempts ∧
      (∀ j : Nat, j < 16 → ∃ v : Word, (s.transact (.read (BitVec.ofNat 12 (0x080 + 4 * j)))).rdata = some v ∧
        ∀ t : Nat, t < 32 → v.getLsbD (31 - t) = s.cells.getMsbD (32 * j + t)) ∧
      (∀ j : Nat, j < 8 → ∃ v : Word, (s.transact (.read (BitVec.ofNat 12 (0x0C0 + 4 * j)))).rdata = some v ∧
        ∀ t : Nat, t < 32 → v.getLsbD (31 - t) = s.acc.getMsbD (32 * j + t)) ∧
      (∀ j : Nat, j < 8 → ∃ v : Word, (s.transact (.read (BitVec.ofNat 12 (0x0E0 + 4 * j)))).rdata = some v ∧
        ∀ t : Nat, t < 32 → v.getLsbD (31 - t) = s.digest.getMsbD (32 * j + t)))

/-- 10_state.md R33, R38, 60_exceptions.md R205: the fields of STATUS, which reads exactly at all times, and the codes that
bits 11:8 hold. The port is the model's form of `rdata` (log 6). -/
def Obligations.StatusWordFields : Prop :=
  ∀ s : State, ∃ v : Word, (s.transact (.read 0x008#12)).rdata = some v ∧
    v.getLsbD 0 = s.op.isSome ∧ v.getLsbD 1 = s.done ∧ v.getLsbD 2 = s.cerr ∧ v.getLsbD 3 = s.werr ∧
    v.extractLsb' 4 4 = 0#4 ∧ v.extractLsb' 12 20 = 0#20 ∧
    (s.result = .none → v.extractLsb' 8 4 = 0#4) ∧
    (s.result = .ok → v.extractLsb' 8 4 = 1#4) ∧
    (s.result = .difficultyUnmet → v.extractLsb' 8 4 = 2#4) ∧
    (s.result = .hashMismatch → v.extractLsb' 8 4 = 3#4) ∧
    (s.result = .exhausted → v.extractLsb' 8 4 = 4#4) ∧
    (s.result = .aborted → v.extractLsb' 8 4 = 5#4) ∧
    (s.result = .illegalCmd → v.extractLsb' 8 4 = 6#4) ∧
    (s.result = .badDiff → v.extractLsb' 8 4 = 7#4)

/-- 20_memory.md R81: a read changes no register, and what the engine is not writing reads the same again. Nor does it
change the model's schedule (log 1); the word read stands in the model's form of `rdata` (log 6). -/
def Obligations.ReadsChangeNoRegister : Prop :=
  ∀ (s : State) (addr : BitVec 12), (s.transact (.read addr)).registers = s.registers ∧
    (s.transact (.read addr)).pending = s.pending ∧
    ((targetAt addr).engineWritten = false ∨ s.busy = false →
      ((s.transact (.read addr)).transact (.read addr)).rdata = (s.transact (.read addr)).rdata)

/-- 20_memory.md R86: the W1C write of STATUS, at any time. -/
def Obligations.StatusWriteClearsWhatItNames : Prop :=
  ∀ (s : State) (v : Word), s.transact (.write 0x008#12 v) = { s with
    done := if v.getLsbD 1 then false else s.done
    cerr := if v.getLsbD 2 then false else s.cerr
    werr := if v.getLsbD 3 then false else s.werr }

/-- 20_memory.md R87 with 10_state.md R32, R55: a CTRL write sets IE at any time, and irq follows at once. -/
def Obligations.CtrlWriteSetsIe : Prop :=
  ∀ (s : State) (v : Word), s.transact (.write 0x004#12 v) = { s with ie := v.getLsbD 0 } ∧
    (s.transact (.write 0x004#12 v)).irq = (v.getLsbD 0 && s.done)

/-! ## Reset and the invariant -/

/-- 70_reset_and_hazards.md R241: the reset-state table. -/
def Obligations.ResetStateTable : Prop :=
  (∀ p : Target, State.reset.windowWord p = if p = .id then 0x43414801#32 else 0) ∧
  State.reset.ie = false ∧ State.reset.op = none ∧ State.reset.done = false ∧ State.reset.cerr = false ∧
  State.reset.werr = false ∧ State.reset.result = .none ∧ State.reset.pos = 0 ∧ State.reset.abortReq = false ∧
  State.reset.irq = false

/-- 70_reset_and_hazards.md R240: a reset leaves the reset state whatever was going on; the events still to come and the
count of free words are the model's own and stay (log 1, log 5). -/
def Obligations.ResetEventLeavesTheResetState : Prop :=
  ∀ s : State, s.nextEvent = .reset → ∃ t : State, step s = .next t ∧ t.registers = State.reset ∧
    t.pending = s.pending.tail ∧ t.draws = s.draws

/-- The invariant holds right after reset. -/
def Obligations.ResetHasTheInvariant : Prop := State.reset.Inv

/-- Every step keeps the invariant, whatever the schedule holds: POS stays 0 (10_state.md R56), ABORTREQ is set only
while a MINE is busy (R54), BUSY excludes DONE (60_exceptions.md R201, R204), and ATTEMPTS never passes NONCE or the cap
while a MINE is busy, so that it cannot wrap (10_state.md R46). -/
def Obligations.StepKeepsTheInvariant : Prop :=
  ∀ s t : State, s.Inv → step s = .next t → t.Inv
end

