-- ==== Sys2Proof/Laws/Automaton.lean ====
section
/-!
SUPPORT. What the functions of Machine/Automaton.lean do to each element of a sequence: the `getMsbD` of every one of them.
-/

namespace Sys2Proof.Machine

/-! ## Sequences -/

theorem seqOf_getMsbD (w : Nat) (f : Nat → Bool) (i : Nat) : (seqOf w f).getMsbD i = (decide (i < w) && f i) := by
  induction w with
  | zero => simp [seqOf]
  | succ w ih =>
    rw [seqOf, BitVec.getMsbD_concat, ih]
    by_cases h : i < w
    · simp [h, Nat.lt_succ_of_lt h]
    · by_cases h2 : i = w
      · subst h2; simp
      · simp [h2, h, show ¬ i < w + 1 by omega]

/-! ## Evolution -/

theorem leftNeighbours_getMsbD {w : Nat} (S : Cells w) (i : Nat) :
    (leftNeighbours S).getMsbD i = (decide (i < w) && decide (0 < i) && S.getMsbD (i - 1)) := by
  simp [leftNeighbours, BitVec.getMsbD_ushiftRight]
  by_cases h : i < w <;> by_cases h0 : 0 < i <;> simp [h, h0] <;> omega

theorem rightNeighbours_getMsbD {w : Nat} (S : Cells w) (i : Nat) :
    (rightNeighbours S).getMsbD i = S.getMsbD (i + 1) := by
  simp [rightNeighbours, BitVec.getMsbD_shiftLeft]

theorem cellsEqual_getMsbD {w : Nat} (b : Bool) (S : Cells w) (i : Nat) :
    (cellsEqual b S).getMsbD i = (decide (i < w) && (S.getMsbD i == b)) := by
  cases b <;> simp [cellsEqual]
  by_cases h : i < w <;> simp [h]
  exact BitVec.getMsbD_of_ge _ _ (by omega)

theorem neighbourhood_eq {w : Nat} (S : Cells w) (i : Nat) :
    neighbourhood S i =
      4 * (decide (0 < i) && S.getMsbD (i - 1)).toNat + 2 * (S.getMsbD i).toNat + (S.getMsbD (i + 1)).toNat := by
  unfold neighbourhood
  by_cases h : i < w - 1
  · simp [h]
  · have : S.getMsbD (i + 1) = false := BitVec.getMsbD_of_ge _ _ (by omega)
    simp [h, this]

theorem cellsSelecting_getMsbD {w : Nat} (S : Cells w) (index i : Nat) (hi : i < w) :
    (cellsSelecting S index).getMsbD i =
      ((decide (0 < i) && S.getMsbD (i - 1)) == index.testBit 2 && (S.getMsbD i == index.testBit 1) &&
        (S.getMsbD (i + 1) == index.testBit 0)) := by
  simp [cellsSelecting, cellsEqual_getMsbD, leftNeighbours_getMsbD, rightNeighbours_getMsbD, hi]

/-- The spec lemma of `evolve`: each cell becomes the rule-ROM entry of its neighbourhood (40_ca_engine.md R123). -/
theorem evolve_getMsbD {w : Nat} (S : Cells w) (rule : BitVec 8) (i : Nat) (hi : i < w) :
    (evolve S rule).getMsbD i = rule.getLsbD (neighbourhood S i) := by
  have ite_msb : ∀ (c : Bool) (x y : BitVec w),
      (if c = true then x else y).getMsbD i = if c = true then x.getMsbD i else y.getMsbD i := by
    intro c x y; cases c <;> rfl
  rw [neighbourhood_eq S i]
  simp only [evolve, show List.range 8 = [0, 1, 2, 3, 4, 5, 6, 7] from rfl, List.foldl, ite_msb, BitVec.getMsbD_or,
    cellsSelecting_getMsbD S _ i hi]
  generalize (decide (0 < i) && S.getMsbD (i - 1)) = l
  generalize S.getMsbD i = c
  generalize S.getMsbD (i + 1) = r
  cases l <;> cases c <;> cases r <;> simp [Nat.testBit]

/-! ## Initial state -/

/-- The digits of `bytesNat`, read from the least significant one. -/
theorem bytesFold_testBit (m : List Byte) : ∀ (n j : Nat), (m.foldl (fun n b => 256 * n + b.toNat) n).testBit j =
    if j < 8 * m.length then (m.getD (m.length - 1 - j / 8) 0).getLsbD (j % 8) else n.testBit (j - 8 * m.length) := by
  induction m with
  | nil => intro n j; simp
  | cons b m ih =>
    intro n j
    rw [List.foldl_cons, ih]
    by_cases h : j < 8 * m.length
    · have h2 : j < 8 * (m.length + 1) := by omega
      have : m.length + 1 - 1 - j / 8 = (m.length - 1 - j / 8) + 1 := by omega
      simp only [h, List.length_cons, h2, if_true, this, List.getD_cons_succ]
    · by_cases h2 : j < 8 * (m.length + 1)
      · have h3 : m.length + 1 - 1 - j / 8 = 0 := by omega
        have h4 : j - 8 * m.length < 8 := by omega
        have h5 : j % 8 = j - 8 * m.length := by omega
        simp only [h, List.length_cons, h2, if_true, if_false, h3, List.getD_cons_zero, h5]
        rw [show 256 * n + b.toNat = 2 ^ 8 * n + b.toNat by ring, Nat.testBit_two_pow_mul_add _ b.isLt, if_pos h4]
        rfl
      · simp only [h, List.length_cons, h2, if_false]
        rw [show 256 * n + b.toNat = 2 ^ 8 * n + b.toNat by ring, Nat.testBit_two_pow_mul_add _ b.isLt, if_neg (by omega)]
        congr 1

/-- The spec lemma of `init` (40_ca_engine.md R122). -/
theorem initCells_getMsbD (w : Nat) (m : List Byte) (c : Nat) (hc : c < w) :
    (initCells w m).getMsbD c = if c < 8 * m.length then (m.getD (c / 8) 0).getLsbD (7 - c % 8) else false := by
  simp only [initCells, BitVec.getMsbD, BitVec.getLsbD_ofNat, hc, decide_true, Bool.true_and,
    show w - 1 - c < w by omega, Nat.testBit_shiftRight, Nat.testBit_shiftLeft]
  rw [bytesNat, bytesFold_testBit]
  by_cases h : c < 8 * m.length
  · have h1 : 8 * m.length + (w - 1 - c) ≥ w := by omega
    have h2 : 8 * m.length + (w - 1 - c) - w < 8 * m.length := by omega
    simp only [h, h1, h2, if_true, decide_true, Bool.true_and]
    congr 2 <;> omega
  · have h1 : ¬ 8 * m.length + (w - 1 - c) ≥ w := by omega
    simp [h1, h]

/-! ## Exclusive-or over a range -/

/-- The exclusive-or of `f 0`, ..., `f (n - 1)`. -/
def xorRange (f : Nat → Bool) (n : Nat) : Bool := (List.range n).foldl (fun x i => x ^^ f i) false

@[simp] theorem xorRange_zero (f : Nat → Bool) : xorRange f 0 = false := rfl

theorem xorRange_succ (f : Nat → Bool) (n : Nat) : xorRange f (n + 1) = (xorRange f n ^^ f n) := by
  simp [xorRange, List.range_succ]

theorem xorRange_add (f : Nat → Bool) (a m : Nat) :
    xorRange f (a + m) = (xorRange f a ^^ xorRange (fun i => f (a + i)) m) := by
  induction m with
  | zero => simp
  | succ m ih => rw [← Nat.add_assoc, xorRange_succ, ih, xorRange_succ]; simp

theorem xorRange_congr {f g : Nat → Bool} {n : Nat} (h : ∀ i, i < n → f i = g i) : xorRange f n = xorRange g n := by
  induction n with
  | zero => rfl
  | succ n ih => rw [xorRange_succ, xorRange_succ, ih fun i hi => h i (by omega), h n (by omega)]

/-! ## The fold of the compressor -/

theorem foldChunk_getMsbD {w : Nat} (S : Cells w) (k t : Nat) (ht : t < 256) :
    (foldChunk S k).getMsbD t = S.getMsbD (256 * k + t) := by
  simp only [foldChunk, BitVec.getMsbD, BitVec.getLsbD_ofNat, ht, decide_true, Bool.true_and,
    show 256 - 1 - t < 256 by omega, Nat.testBit_shiftRight, Nat.testBit_shiftLeft, BitVec.testBit_toNat]
  by_cases h : 256 * k + t < w
  · have : w + (256 - 1 - t) ≥ 256 * (k + 1) := by omega
    simp only [h, this, decide_true, Bool.true_and]
    exact congrArg _ (by omega)
  · have : ¬ w + (256 - 1 - t) ≥ 256 * (k + 1) := by omega
    simp [h, this]

theorem foldl_xor_getMsbD (f : Nat → Digest) (n t : Nat) :
    ((List.range n).foldl (fun a k => a ^^^ f k) 0#256).getMsbD t = xorRange (fun k => (f k).getMsbD t) n := by
  induction n with
  | zero => simp
  | succ n ih => rw [List.range_succ, List.foldl_append, xorRange_succ, ← ih]; simp

/-- The spec lemma of the fold: position `t` takes in the cells `256k + t`. -/
theorem foldCells_getMsbD {w : Nat} (S : Cells w) (t : Nat) (ht : t < 256) :
    (foldCells S).getMsbD t = xorRange (fun k => S.getMsbD (256 * k + t)) ((w + 255) / 256) := by
  rw [foldCells, foldl_xor_getMsbD, xorRange_congr fun k _ => foldChunk_getMsbD S k t ht]

/-- Rotating right by `p` moves position `k` to position `k + p` modulo 256. -/
theorem rotateRight_getMsbD (x : Digest) (p k : Nat) (hp : p < 256) (hk : k < 256) :
    (x.rotateRight p).getMsbD k = x.getMsbD ((k + 256 - p) % 256) := by
  rw [BitVec.getMsbD_rotateRight]
  simp [hk, Nat.mod_eq_of_lt hp]
  split
  · rw [Nat.add_comm k 256, Nat.mod_eq_of_lt (show 256 + k - p < 256 by omega)]
  · rw [show (k + 256 - p) % 256 = k - p by omega]

/-- The spec lemma of `absorb` (40_ca_engine.md R124): position `k` of ACC takes in the cells that lie `POS` before it. -/
theorem absorb_acc_getMsbD {w : Nat} (h : HashRegs w) (k : Nat) (hk : k < 256) :
    (absorb h).acc.getMsbD k =
      (h.acc.getMsbD k ^^
        xorRange (fun c => h.cells.getMsbD (256 * c + (k + 256 - h.pos.toNat) % 256)) ((w + 255) / 256)) := by
  rw [absorb, BitVec.getMsbD_xor, rotateRight_getMsbD _ _ _ h.pos.isLt hk,
    foldCells_getMsbD _ _ (Nat.mod_lt _ (by decide))]

theorem foldl_xorBit_getMsbD (p : Nat → Nat) (b : Nat → Bool) (n k : Nat) (acc : Digest) (hk : k < 256) :
    ((List.range n).foldl (fun a j => xorBit a (p j) (b j)) acc).getMsbD k =
      (acc.getMsbD k ^^ xorRange (fun j => b j && k == p j) n) := by
  induction n with
  | zero => simp
  | succ n ih =>
    rw [List.range_succ, List.foldl_append, xorRange_succ, List.foldl_cons, List.foldl_nil, xorBit, seqOf_getMsbD, ih]
    simp [hk]

/-- The spec lemma of the reference loop (40_ca_engine.md R124): position `k` of ACC takes in the cells `j` with
`(POS + j) % 256 = k`. -/
theorem refAbsorb_acc_getMsbD {w : Nat} (h : HashRegs w) (k : Nat) (hk : k < 256) :
    (refAbsorb h).acc.getMsbD k =
      (h.acc.getMsbD k ^^ xorRange (fun j => h.cells.getMsbD j && k == (h.pos.toNat + j) % 256) w) :=
  foldl_xorBit_getMsbD _ _ _ _ _ hk

@[simp] theorem absorb_cells {w : Nat} (h : HashRegs w) : (absorb h).cells = h.cells := rfl

@[simp] theorem absorb_pos {w : Nat} (h : HashRegs w) : (absorb h).pos = h.pos + BitVec.ofNat 8 w := rfl

/-! ## The loop -/

@[simp] theorem evolveAbsorb_cells {w : Nat} (rule : BitVec 8) (h : HashRegs w) :
    (evolveAbsorb rule h).cells = evolve h.cells rule := rfl

@[simp] theorem evolveAbsorb_pos {w : Nat} (rule : BitVec 8) (h : HashRegs w) :
    (evolveAbsorb rule h).pos = h.pos + BitVec.ofNat 8 w := rfl

@[simp] theorem runSteps_zero {w : Nat} (rule : BitVec 8) (h : HashRegs w) : runSteps rule 0 h = h := rfl

theorem runSteps_succ {w : Nat} (rule : BitVec 8) (n : Nat) (h : HashRegs w) :
    runSteps rule (n + 1) h = runSteps rule n (evolveAbsorb rule h) := rfl

/-- Running `a` and then `b` steps is running `a + b` steps. -/
theorem runSteps_add {w : Nat} (rule : BitVec 8) (a b : Nat) (h : HashRegs w) :
    runSteps rule (a + b) h = runSteps rule b (runSteps rule a h) := by
  induction a generalizing h with
  | zero => rw [Nat.zero_add, runSteps_zero]
  | succ a ih => rw [Nat.succ_add_eq_add_succ, ← Nat.succ_eq_add_one, Nat.add_succ, runSteps_succ, ih, ← runSteps_succ]

end Sys2Proof.Machine
end

