-- ==== Sys2Proof/Laws/Difficulty.lean ====
section
/-!
SUPPORT. The difficulty predicate, the nonce rendering and the preimage.
-/

namespace Sys2Proof.Machine

/-- The spec lemma of `meets`, by bits (41_hash_mining.md R161). -/
theorem meets_eq_true_iff (D : Digest) (d : Nat) :
    meets D d = true ↔ d ≤ 64 ∧ ∀ k, k < 4 * d → D.getMsbD k = false := by
  simp [meets]

theorem hexDigit_eq_zero_iff (D : Digest) (k : Nat) :
    hexDigit D k = 0 ↔ D.getMsbD (4 * k) = false ∧ D.getMsbD (4 * k + 1) = false ∧ D.getMsbD (4 * k + 2) = false ∧
      D.getMsbD (4 * k + 3) = false := by
  unfold hexDigit
  cases D.getMsbD (4 * k) <;> cases D.getMsbD (4 * k + 1) <;> cases D.getMsbD (4 * k + 2) <;>
    cases D.getMsbD (4 * k + 3) <;> simp

theorem digitByte_toNat (d : Nat) (h : d < 10) : (digitByte d).toNat = 0x30 + d := by
  simp [digitByte]; omega

theorem decDigits_small (fuel n : Nat) (h : n < 10) : decDigits (fuel + 1) n = [digitByte n] := by
  rw [decDigits, if_pos h]

theorem decDigits_large (fuel n : Nat) (h : 10 ≤ n) :
    decDigits (fuel + 1) n = decDigits fuel (n / 10) ++ [digitByte (n % 10)] := by
  rw [decDigits, if_neg (by omega)]

theorem State.msgBytes_length (s : State) : s.msgBytes.length = min s.mlen.toNat 64 := by
  simp [State.msgBytes, State.messageLength]

theorem State.take_msg_length (s : State) (h : s.mlen.toNat < 64) :
    (s.msg.toList.take s.mlen.toNat).length = s.mlen.toNat := by
  rw [List.length_take, Vector.length_toList]; omega

/-- The spec lemma of `preimage` (41_hash_mining.md R163): the prefix, and as much of the nonce as fits. -/
theorem State.preimageOf_eq_append (s : State) (n : Word) :
    s.preimageOf n = s.msg.toList.take s.mlen.toNat ++ (dec n).take (64 - s.mlen.toNat) := by
  by_cases h : 64 ≤ s.mlen.toNat
  · simp [State.preimageOf, h]
  · rw [State.preimageOf, if_neg h, List.take_append, State.take_msg_length s (by omega),
      List.take_of_length_le (by rw [State.take_msg_length s (by omega)]; omega)]

end Sys2Proof.Machine
end

