-- ==== Sys2Proof/Laws/State.lean ====
section
/-!
SUPPORT. One lemma for each field of State and each named update of State: what the field holds after the update.
-/

namespace Sys2Proof.Machine

/-! ## `State.finish` (60_exceptions.md R204) -/

@[simp] theorem State.finish_ie (s : State) (c : ResultCode) : (s.finish c).ie = s.ie := rfl
@[simp] theorem State.finish_done (s : State) (c : ResultCode) : (s.finish c).done = true := rfl
@[simp] theorem State.finish_cerr (s : State) (c : ResultCode) : (s.finish c).cerr = s.cerr := rfl
@[simp] theorem State.finish_werr (s : State) (c : ResultCode) : (s.finish c).werr = s.werr := rfl
@[simp] theorem State.finish_result (s : State) (c : ResultCode) : (s.finish c).result = c := rfl
@[simp] theorem State.finish_rule (s : State) (c : ResultCode) : (s.finish c).rule = s.rule := rfl
@[simp] theorem State.finish_steps (s : State) (c : ResultCode) : (s.finish c).steps = s.steps := rfl
@[simp] theorem State.finish_diff (s : State) (c : ResultCode) : (s.finish c).diff = s.diff := rfl
@[simp] theorem State.finish_mlen (s : State) (c : ResultCode) : (s.finish c).mlen = s.mlen := rfl
@[simp] theorem State.finish_nonce (s : State) (c : ResultCode) : (s.finish c).nonce = s.nonce := rfl
@[simp] theorem State.finish_maxatt (s : State) (c : ResultCode) : (s.finish c).maxatt = s.maxatt := rfl
@[simp] theorem State.finish_attempts (s : State) (c : ResultCode) : (s.finish c).attempts = s.attempts := rfl
@[simp] theorem State.finish_msg (s : State) (c : ResultCode) : (s.finish c).msg = s.msg := rfl
@[simp] theorem State.finish_cells (s : State) (c : ResultCode) : (s.finish c).cells = s.cells := rfl
@[simp] theorem State.finish_acc (s : State) (c : ResultCode) : (s.finish c).acc = s.acc := rfl
@[simp] theorem State.finish_digest (s : State) (c : ResultCode) : (s.finish c).digest = s.digest := rfl
@[simp] theorem State.finish_exp (s : State) (c : ResultCode) : (s.finish c).exp = s.exp := rfl
@[simp] theorem State.finish_pos (s : State) (c : ResultCode) : (s.finish c).pos = s.pos := rfl
@[simp] theorem State.finish_op (s : State) (c : ResultCode) : (s.finish c).op = none := rfl
@[simp] theorem State.finish_abortReq (s : State) (c : ResultCode) : (s.finish c).abortReq = false := rfl
@[simp] theorem State.finish_rdata (s : State) (c : ResultCode) : (s.finish c).rdata = s.rdata := rfl
@[simp] theorem State.finish_pending (s : State) (c : ResultCode) : (s.finish c).pending = s.pending := rfl
@[simp] theorem State.finish_draws (s : State) (c : ResultCode) : (s.finish c).draws = s.draws := rfl

/-! ## `State.clearStatus` (20_memory.md R86) -/

@[simp] theorem State.clearStatus_ie (s : State) (v : Word) : (s.clearStatus v).ie = s.ie := rfl
@[simp] theorem State.clearStatus_done (s : State) (v : Word) : (s.clearStatus v).done = (s.done && !v.getLsbD 1) := rfl
@[simp] theorem State.clearStatus_cerr (s : State) (v : Word) : (s.clearStatus v).cerr = (s.cerr && !v.getLsbD 2) := rfl
@[simp] theorem State.clearStatus_werr (s : State) (v : Word) : (s.clearStatus v).werr = (s.werr && !v.getLsbD 3) := rfl
@[simp] theorem State.clearStatus_result (s : State) (v : Word) : (s.clearStatus v).result = s.result := rfl
@[simp] theorem State.clearStatus_rule (s : State) (v : Word) : (s.clearStatus v).rule = s.rule := rfl
@[simp] theorem State.clearStatus_steps (s : State) (v : Word) : (s.clearStatus v).steps = s.steps := rfl
@[simp] theorem State.clearStatus_diff (s : State) (v : Word) : (s.clearStatus v).diff = s.diff := rfl
@[simp] theorem State.clearStatus_mlen (s : State) (v : Word) : (s.clearStatus v).mlen = s.mlen := rfl
@[simp] theorem State.clearStatus_nonce (s : State) (v : Word) : (s.clearStatus v).nonce = s.nonce := rfl
@[simp] theorem State.clearStatus_maxatt (s : State) (v : Word) : (s.clearStatus v).maxatt = s.maxatt := rfl
@[simp] theorem State.clearStatus_attempts (s : State) (v : Word) : (s.clearStatus v).attempts = s.attempts := rfl
@[simp] theorem State.clearStatus_msg (s : State) (v : Word) : (s.clearStatus v).msg = s.msg := rfl
@[simp] theorem State.clearStatus_cells (s : State) (v : Word) : (s.clearStatus v).cells = s.cells := rfl
@[simp] theorem State.clearStatus_acc (s : State) (v : Word) : (s.clearStatus v).acc = s.acc := rfl
@[simp] theorem State.clearStatus_digest (s : State) (v : Word) : (s.clearStatus v).digest = s.digest := rfl
@[simp] theorem State.clearStatus_exp (s : State) (v : Word) : (s.clearStatus v).exp = s.exp := rfl
@[simp] theorem State.clearStatus_pos (s : State) (v : Word) : (s.clearStatus v).pos = s.pos := rfl
@[simp] theorem State.clearStatus_op (s : State) (v : Word) : (s.clearStatus v).op = s.op := rfl
@[simp] theorem State.clearStatus_abortReq (s : State) (v : Word) : (s.clearStatus v).abortReq = s.abortReq := rfl
@[simp] theorem State.clearStatus_rdata (s : State) (v : Word) : (s.clearStatus v).rdata = s.rdata := rfl
@[simp] theorem State.clearStatus_pending (s : State) (v : Word) : (s.clearStatus v).pending = s.pending := rfl
@[simp] theorem State.clearStatus_draws (s : State) (v : Word) : (s.clearStatus v).draws = s.draws := rfl

/-! ## `State.accept` (60_exceptions.md R201) -/

@[simp] theorem State.accept_ie (s : State) (i : Instr) : (s.accept i).ie = s.ie := rfl
@[simp] theorem State.accept_done (s : State) (i : Instr) : (s.accept i).done = false := rfl
@[simp] theorem State.accept_cerr (s : State) (i : Instr) : (s.accept i).cerr = s.cerr := rfl
@[simp] theorem State.accept_werr (s : State) (i : Instr) : (s.accept i).werr = s.werr := rfl
@[simp] theorem State.accept_result (s : State) (i : Instr) : (s.accept i).result = .none := rfl
@[simp] theorem State.accept_rule (s : State) (i : Instr) : (s.accept i).rule = s.rule := rfl
@[simp] theorem State.accept_steps (s : State) (i : Instr) : (s.accept i).steps = s.steps := rfl
@[simp] theorem State.accept_diff (s : State) (i : Instr) : (s.accept i).diff = s.diff := rfl
@[simp] theorem State.accept_mlen (s : State) (i : Instr) : (s.accept i).mlen = s.mlen := rfl
@[simp] theorem State.accept_nonce (s : State) (i : Instr) : (s.accept i).nonce = s.nonce := rfl
@[simp] theorem State.accept_maxatt (s : State) (i : Instr) : (s.accept i).maxatt = s.maxatt := rfl
@[simp] theorem State.accept_attempts (s : State) (i : Instr) : (s.accept i).attempts = if i = .mine then 0 else s.attempts := rfl
@[simp] theorem State.accept_msg (s : State) (i : Instr) : (s.accept i).msg = s.msg := rfl
@[simp] theorem State.accept_cells (s : State) (i : Instr) : (s.accept i).cells = s.cells := rfl
@[simp] theorem State.accept_acc (s : State) (i : Instr) : (s.accept i).acc = s.acc := rfl
@[simp] theorem State.accept_digest (s : State) (i : Instr) : (s.accept i).digest = s.digest := rfl
@[simp] theorem State.accept_exp (s : State) (i : Instr) : (s.accept i).exp = s.exp := rfl
@[simp] theorem State.accept_pos (s : State) (i : Instr) : (s.accept i).pos = s.pos := rfl
@[simp] theorem State.accept_op (s : State) (i : Instr) : (s.accept i).op = some i := rfl
@[simp] theorem State.accept_abortReq (s : State) (i : Instr) : (s.accept i).abortReq = false := rfl
@[simp] theorem State.accept_rdata (s : State) (i : Instr) : (s.accept i).rdata = s.rdata := rfl
@[simp] theorem State.accept_pending (s : State) (i : Instr) : (s.accept i).pending = s.pending := rfl
@[simp] theorem State.accept_draws (s : State) (i : Instr) : (s.accept i).draws = s.draws := rfl

/-! ## `State.requestAbort` (41_hash_mining.md R180) -/

@[simp] theorem State.requestAbort_ie (s : State) : (s.requestAbort).ie = s.ie := rfl
@[simp] theorem State.requestAbort_done (s : State) : (s.requestAbort).done = s.done := rfl
@[simp] theorem State.requestAbort_cerr (s : State) : (s.requestAbort).cerr = s.cerr := rfl
@[simp] theorem State.requestAbort_werr (s : State) : (s.requestAbort).werr = s.werr := rfl
@[simp] theorem State.requestAbort_result (s : State) : (s.requestAbort).result = s.result := rfl
@[simp] theorem State.requestAbort_rule (s : State) : (s.requestAbort).rule = s.rule := rfl
@[simp] theorem State.requestAbort_steps (s : State) : (s.requestAbort).steps = s.steps := rfl
@[simp] theorem State.requestAbort_diff (s : State) : (s.requestAbort).diff = s.diff := rfl
@[simp] theorem State.requestAbort_mlen (s : State) : (s.requestAbort).mlen = s.mlen := rfl
@[simp] theorem State.requestAbort_nonce (s : State) : (s.requestAbort).nonce = s.nonce := rfl
@[simp] theorem State.requestAbort_maxatt (s : State) : (s.requestAbort).maxatt = s.maxatt := rfl
@[simp] theorem State.requestAbort_attempts (s : State) : (s.requestAbort).attempts = s.attempts := rfl
@[simp] theorem State.requestAbort_msg (s : State) : (s.requestAbort).msg = s.msg := rfl
@[simp] theorem State.requestAbort_cells (s : State) : (s.requestAbort).cells = s.cells := rfl
@[simp] theorem State.requestAbort_acc (s : State) : (s.requestAbort).acc = s.acc := rfl
@[simp] theorem State.requestAbort_digest (s : State) : (s.requestAbort).digest = s.digest := rfl
@[simp] theorem State.requestAbort_exp (s : State) : (s.requestAbort).exp = s.exp := rfl
@[simp] theorem State.requestAbort_pos (s : State) : (s.requestAbort).pos = s.pos := rfl
@[simp] theorem State.requestAbort_op (s : State) : (s.requestAbort).op = s.op := rfl
@[simp] theorem State.requestAbort_abortReq (s : State) : (s.requestAbort).abortReq = true := rfl
@[simp] theorem State.requestAbort_rdata (s : State) : (s.requestAbort).rdata = s.rdata := rfl
@[simp] theorem State.requestAbort_pending (s : State) : (s.requestAbort).pending = s.pending := rfl
@[simp] theorem State.requestAbort_draws (s : State) : (s.requestAbort).draws = s.draws := rfl

/-! ## `State.dropCommand` (60_exceptions.md R203) -/

@[simp] theorem State.dropCommand_ie (s : State) : (s.dropCommand).ie = s.ie := rfl
@[simp] theorem State.dropCommand_done (s : State) : (s.dropCommand).done = s.done := rfl
@[simp] theorem State.dropCommand_cerr (s : State) : (s.dropCommand).cerr = true := rfl
@[simp] theorem State.dropCommand_werr (s : State) : (s.dropCommand).werr = s.werr := rfl
@[simp] theorem State.dropCommand_result (s : State) : (s.dropCommand).result = s.result := rfl
@[simp] theorem State.dropCommand_rule (s : State) : (s.dropCommand).rule = s.rule := rfl
@[simp] theorem State.dropCommand_steps (s : State) : (s.dropCommand).steps = s.steps := rfl
@[simp] theorem State.dropCommand_diff (s : State) : (s.dropCommand).diff = s.diff := rfl
@[simp] theorem State.dropCommand_mlen (s : State) : (s.dropCommand).mlen = s.mlen := rfl
@[simp] theorem State.dropCommand_nonce (s : State) : (s.dropCommand).nonce = s.nonce := rfl
@[simp] theorem State.dropCommand_maxatt (s : State) : (s.dropCommand).maxatt = s.maxatt := rfl
@[simp] theorem State.dropCommand_attempts (s : State) : (s.dropCommand).attempts = s.attempts := rfl
@[simp] theorem State.dropCommand_msg (s : State) : (s.dropCommand).msg = s.msg := rfl
@[simp] theorem State.dropCommand_cells (s : State) : (s.dropCommand).cells = s.cells := rfl
@[simp] theorem State.dropCommand_acc (s : State) : (s.dropCommand).acc = s.acc := rfl
@[simp] theorem State.dropCommand_digest (s : State) : (s.dropCommand).digest = s.digest := rfl
@[simp] theorem State.dropCommand_exp (s : State) : (s.dropCommand).exp = s.exp := rfl
@[simp] theorem State.dropCommand_pos (s : State) : (s.dropCommand).pos = s.pos := rfl
@[simp] theorem State.dropCommand_op (s : State) : (s.dropCommand).op = s.op := rfl
@[simp] theorem State.dropCommand_abortReq (s : State) : (s.dropCommand).abortReq = s.abortReq := rfl
@[simp] theorem State.dropCommand_rdata (s : State) : (s.dropCommand).rdata = s.rdata := rfl
@[simp] theorem State.dropCommand_pending (s : State) : (s.dropCommand).pending = s.pending := rfl
@[simp] theorem State.dropCommand_draws (s : State) : (s.dropCommand).draws = s.draws := rfl

/-! ## `State.dropWrite` (20_memory.md R88) -/

@[simp] theorem State.dropWrite_ie (s : State) : (s.dropWrite).ie = s.ie := rfl
@[simp] theorem State.dropWrite_done (s : State) : (s.dropWrite).done = s.done := rfl
@[simp] theorem State.dropWrite_cerr (s : State) : (s.dropWrite).cerr = s.cerr := rfl
@[simp] theorem State.dropWrite_werr (s : State) : (s.dropWrite).werr = true := rfl
@[simp] theorem State.dropWrite_result (s : State) : (s.dropWrite).result = s.result := rfl
@[simp] theorem State.dropWrite_rule (s : State) : (s.dropWrite).rule = s.rule := rfl
@[simp] theorem State.dropWrite_steps (s : State) : (s.dropWrite).steps = s.steps := rfl
@[simp] theorem State.dropWrite_diff (s : State) : (s.dropWrite).diff = s.diff := rfl
@[simp] theorem State.dropWrite_mlen (s : State) : (s.dropWrite).mlen = s.mlen := rfl
@[simp] theorem State.dropWrite_nonce (s : State) : (s.dropWrite).nonce = s.nonce := rfl
@[simp] theorem State.dropWrite_maxatt (s : State) : (s.dropWrite).maxatt = s.maxatt := rfl
@[simp] theorem State.dropWrite_attempts (s : State) : (s.dropWrite).attempts = s.attempts := rfl
@[simp] theorem State.dropWrite_msg (s : State) : (s.dropWrite).msg = s.msg := rfl
@[simp] theorem State.dropWrite_cells (s : State) : (s.dropWrite).cells = s.cells := rfl
@[simp] theorem State.dropWrite_acc (s : State) : (s.dropWrite).acc = s.acc := rfl
@[simp] theorem State.dropWrite_digest (s : State) : (s.dropWrite).digest = s.digest := rfl
@[simp] theorem State.dropWrite_exp (s : State) : (s.dropWrite).exp = s.exp := rfl
@[simp] theorem State.dropWrite_pos (s : State) : (s.dropWrite).pos = s.pos := rfl
@[simp] theorem State.dropWrite_op (s : State) : (s.dropWrite).op = s.op := rfl
@[simp] theorem State.dropWrite_abortReq (s : State) : (s.dropWrite).abortReq = s.abortReq := rfl
@[simp] theorem State.dropWrite_rdata (s : State) : (s.dropWrite).rdata = s.rdata := rfl
@[simp] theorem State.dropWrite_pending (s : State) : (s.dropWrite).pending = s.pending := rfl
@[simp] theorem State.dropWrite_draws (s : State) : (s.dropWrite).draws = s.draws := rfl

/-! ## `State.setHashRegs` (the working registers) -/

@[simp] theorem State.setHashRegs_ie (s : State) (h : HashRegs Config.W) : (s.setHashRegs h).ie = s.ie := rfl
@[simp] theorem State.setHashRegs_done (s : State) (h : HashRegs Config.W) : (s.setHashRegs h).done = s.done := rfl
@[simp] theorem State.setHashRegs_cerr (s : State) (h : HashRegs Config.W) : (s.setHashRegs h).cerr = s.cerr := rfl
@[simp] theorem State.setHashRegs_werr (s : State) (h : HashRegs Config.W) : (s.setHashRegs h).werr = s.werr := rfl
@[simp] theorem State.setHashRegs_result (s : State) (h : HashRegs Config.W) : (s.setHashRegs h).result = s.result := rfl
@[simp] theorem State.setHashRegs_rule (s : State) (h : HashRegs Config.W) : (s.setHashRegs h).rule = s.rule := rfl
@[simp] theorem State.setHashRegs_steps (s : State) (h : HashRegs Config.W) : (s.setHashRegs h).steps = s.steps := rfl
@[simp] theorem State.setHashRegs_diff (s : State) (h : HashRegs Config.W) : (s.setHashRegs h).diff = s.diff := rfl
@[simp] theorem State.setHashRegs_mlen (s : State) (h : HashRegs Config.W) : (s.setHashRegs h).mlen = s.mlen := rfl
@[simp] theorem State.setHashRegs_nonce (s : State) (h : HashRegs Config.W) : (s.setHashRegs h).nonce = s.nonce := rfl
@[simp] theorem State.setHashRegs_maxatt (s : State) (h : HashRegs Config.W) : (s.setHashRegs h).maxatt = s.maxatt := rfl
@[simp] theorem State.setHashRegs_attempts (s : State) (h : HashRegs Config.W) : (s.setHashRegs h).attempts = s.attempts := rfl
@[simp] theorem State.setHashRegs_msg (s : State) (h : HashRegs Config.W) : (s.setHashRegs h).msg = s.msg := rfl
@[simp] theorem State.setHashRegs_cells (s : State) (h : HashRegs Config.W) : (s.setHashRegs h).cells = h.cells := rfl
@[simp] theorem State.setHashRegs_acc (s : State) (h : HashRegs Config.W) : (s.setHashRegs h).acc = h.acc := rfl
@[simp] theorem State.setHashRegs_digest (s : State) (h : HashRegs Config.W) : (s.setHashRegs h).digest = s.digest := rfl
@[simp] theorem State.setHashRegs_exp (s : State) (h : HashRegs Config.W) : (s.setHashRegs h).exp = s.exp := rfl
@[simp] theorem State.setHashRegs_pos (s : State) (h : HashRegs Config.W) : (s.setHashRegs h).pos = h.pos := rfl
@[simp] theorem State.setHashRegs_op (s : State) (h : HashRegs Config.W) : (s.setHashRegs h).op = s.op := rfl
@[simp] theorem State.setHashRegs_abortReq (s : State) (h : HashRegs Config.W) : (s.setHashRegs h).abortReq = s.abortReq := rfl
@[simp] theorem State.setHashRegs_rdata (s : State) (h : HashRegs Config.W) : (s.setHashRegs h).rdata = s.rdata := rfl
@[simp] theorem State.setHashRegs_pending (s : State) (h : HashRegs Config.W) : (s.setHashRegs h).pending = s.pending := rfl
@[simp] theorem State.setHashRegs_draws (s : State) (h : HashRegs Config.W) : (s.setHashRegs h).draws = s.draws := rfl

/-! ## `State.advance` (log 1, log 6) -/

@[simp] theorem State.advance_ie (s : State) : (s.advance).ie = s.ie := rfl
@[simp] theorem State.advance_done (s : State) : (s.advance).done = s.done := rfl
@[simp] theorem State.advance_cerr (s : State) : (s.advance).cerr = s.cerr := rfl
@[simp] theorem State.advance_werr (s : State) : (s.advance).werr = s.werr := rfl
@[simp] theorem State.advance_result (s : State) : (s.advance).result = s.result := rfl
@[simp] theorem State.advance_rule (s : State) : (s.advance).rule = s.rule := rfl
@[simp] theorem State.advance_steps (s : State) : (s.advance).steps = s.steps := rfl
@[simp] theorem State.advance_diff (s : State) : (s.advance).diff = s.diff := rfl
@[simp] theorem State.advance_mlen (s : State) : (s.advance).mlen = s.mlen := rfl
@[simp] theorem State.advance_nonce (s : State) : (s.advance).nonce = s.nonce := rfl
@[simp] theorem State.advance_maxatt (s : State) : (s.advance).maxatt = s.maxatt := rfl
@[simp] theorem State.advance_attempts (s : State) : (s.advance).attempts = s.attempts := rfl
@[simp] theorem State.advance_msg (s : State) : (s.advance).msg = s.msg := rfl
@[simp] theorem State.advance_cells (s : State) : (s.advance).cells = s.cells := rfl
@[simp] theorem State.advance_acc (s : State) : (s.advance).acc = s.acc := rfl
@[simp] theorem State.advance_digest (s : State) : (s.advance).digest = s.digest := rfl
@[simp] theorem State.advance_exp (s : State) : (s.advance).exp = s.exp := rfl
@[simp] theorem State.advance_pos (s : State) : (s.advance).pos = s.pos := rfl
@[simp] theorem State.advance_op (s : State) : (s.advance).op = s.op := rfl
@[simp] theorem State.advance_abortReq (s : State) : (s.advance).abortReq = s.abortReq := rfl
@[simp] theorem State.advance_rdata (s : State) : (s.advance).rdata = none := rfl
@[simp] theorem State.advance_pending (s : State) : (s.advance).pending = s.pending.tail := rfl
@[simp] theorem State.advance_draws (s : State) : (s.advance).draws = s.draws := rfl

/-! ## `State.resetEvent` (70_reset_and_hazards.md R240) -/

@[simp] theorem State.resetEvent_ie (s : State) : (s.resetEvent).ie = State.reset.ie := rfl
@[simp] theorem State.resetEvent_done (s : State) : (s.resetEvent).done = State.reset.done := rfl
@[simp] theorem State.resetEvent_cerr (s : State) : (s.resetEvent).cerr = State.reset.cerr := rfl
@[simp] theorem State.resetEvent_werr (s : State) : (s.resetEvent).werr = State.reset.werr := rfl
@[simp] theorem State.resetEvent_result (s : State) : (s.resetEvent).result = State.reset.result := rfl
@[simp] theorem State.resetEvent_rule (s : State) : (s.resetEvent).rule = State.reset.rule := rfl
@[simp] theorem State.resetEvent_steps (s : State) : (s.resetEvent).steps = State.reset.steps := rfl
@[simp] theorem State.resetEvent_diff (s : State) : (s.resetEvent).diff = State.reset.diff := rfl
@[simp] theorem State.resetEvent_mlen (s : State) : (s.resetEvent).mlen = State.reset.mlen := rfl
@[simp] theorem State.resetEvent_nonce (s : State) : (s.resetEvent).nonce = State.reset.nonce := rfl
@[simp] theorem State.resetEvent_maxatt (s : State) : (s.resetEvent).maxatt = State.reset.maxatt := rfl
@[simp] theorem State.resetEvent_attempts (s : State) : (s.resetEvent).attempts = State.reset.attempts := rfl
@[simp] theorem State.resetEvent_msg (s : State) : (s.resetEvent).msg = State.reset.msg := rfl
@[simp] theorem State.resetEvent_cells (s : State) : (s.resetEvent).cells = State.reset.cells := rfl
@[simp] theorem State.resetEvent_acc (s : State) : (s.resetEvent).acc = State.reset.acc := rfl
@[simp] theorem State.resetEvent_digest (s : State) : (s.resetEvent).digest = State.reset.digest := rfl
@[simp] theorem State.resetEvent_exp (s : State) : (s.resetEvent).exp = State.reset.exp := rfl
@[simp] theorem State.resetEvent_pos (s : State) : (s.resetEvent).pos = State.reset.pos := rfl
@[simp] theorem State.resetEvent_op (s : State) : (s.resetEvent).op = State.reset.op := rfl
@[simp] theorem State.resetEvent_abortReq (s : State) : (s.resetEvent).abortReq = State.reset.abortReq := rfl
@[simp] theorem State.resetEvent_rdata (s : State) : (s.resetEvent).rdata = State.reset.rdata := rfl
@[simp] theorem State.resetEvent_pending (s : State) : (s.resetEvent).pending = s.pending := rfl
@[simp] theorem State.resetEvent_draws (s : State) : (s.resetEvent).draws = s.draws := rfl

/-! ## What the updates do to BUSY -/

@[simp] theorem State.finish_busy (s : State) (c : ResultCode) : (s.finish c).busy = false := rfl
@[simp] theorem State.accept_busy (s : State) (i : Instr) : (s.accept i).busy = true := rfl
@[simp] theorem State.advance_busy (s : State) : s.advance.busy = s.busy := rfl

end Sys2Proof.Machine
end

