-- ==== Sys2Proof/Laws/Ops.lean ====
section
/-!
SUPPORT. What each shared operation of Machine/Ops.lean and Machine/Engine.lean can do, said once.
-/

namespace Sys2Proof.Machine

/-! ## BUSY -/

theorem State.busy_eq_true_iff (s : State) : s.busy = true ↔ ∃ i, s.op = some i := by
  rw [State.busy, Option.isSome_iff_exists]

theorem State.busy_eq_false_iff (s : State) : s.busy = false ↔ s.op = none := by
  rw [State.busy, Option.isSome_eq_false_iff, Option.isNone_iff_eq_none]

/-! ## Command writes -/

theorem State.cmdWrite_idle (s : State) (v : Word) (h : s.op = none) : s.cmdWrite v = s.accept (decode v) := by
  rw [State.cmdWrite, h]

theorem State.cmdWrite_busy (s : State) (v : Word) (i : Instr) (h : s.op = some i) :
    s.cmdWrite v = if v = 0x0000000A#32 ∧ i = .mine then s.requestAbort else s.dropCommand := by
  rw [State.cmdWrite, h]

/-- What a CMD write can do: be accepted, request an abort, or be dropped. -/
theorem State.cmdWrite_cases (s : State) (v : Word) :
    (s.op = none ∧ s.cmdWrite v = s.accept (decode v)) ∨
    (s.op = some .mine ∧ v = 0x0000000A#32 ∧ s.cmdWrite v = s.requestAbort) ∨
    ∃ i, s.op = some i ∧ ¬ (v = 0x0000000A#32 ∧ i = .mine) ∧ s.cmdWrite v = s.dropCommand := by
  rcases h : s.op with _ | i
  · exact .inl ⟨rfl, s.cmdWrite_idle v h⟩
  · refine .inr ?_
    by_cases hc : v = 0x0000000A#32 ∧ i = .mine
    · exact .inl ⟨by rw [hc.2], hc.1, by rw [s.cmdWrite_busy v i h, if_pos hc]⟩
    · exact .inr ⟨i, rfl, hc, by rw [s.cmdWrite_busy v i h, if_neg hc]⟩

/-! ## Writes and reads -/

theorem State.operandWrite_idle (s new : State) (h : s.busy = false) : s.operandWrite new = new := by
  rw [State.operandWrite, h]; rfl

theorem State.operandWrite_busy (s new : State) (h : s.busy = true) : s.operandWrite new = s.dropWrite := by
  rw [State.operandWrite, h]; rfl

/-- What a write can do while a command is busy. -/
theorem State.writeTarget_cases_busy (s : State) (t : Target) (v : Word) (h : s.busy = true) :
    s.writeTarget t v = s ∨ s.writeTarget t v = { s with ie := v.getLsbD 0 } ∨
    s.writeTarget t v = s.clearStatus v ∨ s.writeTarget t v = s.cmdWrite v ∨ s.writeTarget t v = s.dropWrite := by
  cases t <;> simp [State.writeTarget, s.operandWrite_busy _ h]

/-- What a write can do while the engine is idle: the CMD write is accepted, a STATUS write clears flags, and any other
write leaves STATUS, the latches, the registers that only the engine writes, the port and the schedule alone. -/
theorem State.writeTarget_cases_idle (s : State) (t : Target) (v : Word) (h : s.busy = false) :
    s.writeTarget t v = s.clearStatus v ∨ s.writeTarget t v = s.accept (decode v) ∨
    ∃ r : State, s.writeTarget t v =
      { r with
        done := s.done, cerr := s.cerr, werr := s.werr, result := s.result, attempts := s.attempts, acc := s.acc
        digest := s.digest, pos := s.pos, op := s.op, abortReq := s.abortReq, rdata := s.rdata, pending := s.pending
        draws := s.draws } := by
  generalize hr : s.writeTarget t v = r
  cases t
  case status => exact .inl hr.symm
  case cmd => exact .inr (.inl (hr.symm.trans (s.cmdWrite_idle v (s.busy_eq_false_iff.1 h))))
  all_goals
    refine .inr (.inr ⟨r, ?_⟩)
    simp only [State.writeTarget, s.operandWrite_idle _ h] at hr
    rw [← hr]

/-- A read is exact at a place the engine does not write, and at every place while idle. -/
theorem State.readTarget_exact (s : State) (t : Target) (h : t.engineWritten = false ∨ s.busy = false) :
    s.readTarget t = { s with rdata := some (s.windowWord t) } := by
  rw [State.readTarget, if_neg (by rcases h with h | h <;> simp [h])]

/-- A read of an engine-written register while busy takes the next free word. -/
theorem State.readTarget_free (s : State) (t : Target) (ht : t.engineWritten = true) (h : s.busy = true) :
    s.readTarget t = { s with rdata := some (Config.draw s.draws), draws := s.draws + 1 } := by
  rw [State.readTarget, h, ht]; rfl

@[simp] theorem State.transact_read (s : State) (a : BitVec 12) :
    s.transact (.read a) = s.readTarget (targetAt a) := rfl

@[simp] theorem State.transact_write (s : State) (a : BitVec 12) (v : Word) :
    s.transact (.write a v) = s.writeTarget (targetAt a) v := rfl

/-! ## Steps -/

/-- What a step can do: a reset, a host transaction, the engine transition of the latched command, or nothing when the
engine has the turn and is idle. -/
theorem step_cases {s t : State} (h : step s = .next t) :
    (s.nextEvent = .reset ∧ t = s.advance.resetEvent) ∨
    (∃ op, s.nextEvent = .host op ∧ t = s.advance.transact op) ∨
    (∃ i, s.nextEvent = .engine ∧ s.op = some i ∧ exec i s.advance = .next t) ∨
    (s.nextEvent = .engine ∧ s.op = none ∧ t = s.advance) := by
  rw [step, transition] at h
  rcases he : s.nextEvent with _ | op | _ <;> rw [he] at h
  · exact .inl ⟨rfl, (Host.Outcome.next.inj h).symm⟩
  · exact .inr (.inl ⟨op, rfl, (Host.Outcome.next.inj h).symm⟩)
  · rw [deliver, engineTurn, State.advance_op] at h
    rcases ho : s.op with _ | i <;> rw [ho] at h
    · exact .inr (.inr (.inr ⟨rfl, rfl, (Host.Outcome.next.inj h).symm⟩))
    · exact .inr (.inr (.inl ⟨i, rfl, rfl, h⟩))

theorem step_host (s : State) (op : HostOp) (rest : List Event) (h : s.pending = .host op :: rest) :
    step s = .next ({ s with pending := rest, rdata := none }.transact op) := by
  simp [step, transition, State.nextEvent, State.advance, h, deliver]

theorem step_reset (s : State) (rest : List Event) (h : s.pending = .reset :: rest) :
    step s = .next { State.reset with pending := rest, draws := s.draws } := by
  simp [step, transition, State.nextEvent, State.advance, h, deliver, State.resetEvent]

/-! ## Runs -/

theorem RunsTo.zero (s : State) : RunsTo 0 s s := rfl

theorem hostRun_succ (M : Host.Core) (k : Nat) (s t : M.State) (h : M.step s = .next t) : M.run (k + 1) s = M.run k t := by
  rw [Host.Core.run, h]

theorem RunsTo.succ {k : Nat} {s t u : State} (h : step s = .next t) (ht : RunsTo k t u) : RunsTo (k + 1) s u :=
  (hostRun_succ Sys2Proof.core k s t h).trans ht

end Sys2Proof.Machine
end

