-- ==== Sys2Proof/Laws/Exec.lean ====
section
/-!
SUPPORT. What the engine transition of MINE can do, said once; the other meanings are equations already.
-/

namespace Sys2Proof.Machine

/-- What a MINE step can do (41_hash_mining.md R170). -/
theorem execMine_cases (s : State) :
    (64 < s.diff.toNat ∧ exec .mine s = .next (s.finish .badDiff)) ∨
    (s.diff.toNat ≤ 64 ∧ s.abortReq = true ∧ exec .mine s = .next (s.finish .aborted)) ∨
    (s.diff.toNat ≤ 64 ∧ s.abortReq = false ∧ (s.maxatt ≠ 0 ∧ s.attempts = s.maxatt ∨ s.nonce = 0xFFFFFFFF#32) ∧
      exec .mine s = .next (s.finish .exhausted)) ∨
    (s.diff.toNat ≤ 64 ∧ s.abortReq = false ∧ (s.maxatt = 0 ∨ s.attempts ≠ s.maxatt) ∧ s.nonce ≠ 0xFFFFFFFF#32 ∧
      exec .mine s = .next s.mineAttempt) := by
  simp only [exec, execMine]
  by_cases h1 : 64 < s.diff.toNat
  · exact .inl ⟨h1, by rw [if_pos (show 64 < s.difficulty from h1)]⟩
  rw [if_neg (show ¬ 64 < s.difficulty from h1)]
  refine .inr ?_
  by_cases h2 : s.abortReq = true
  · exact .inl ⟨not_lt.1 h1, h2, by rw [if_pos h2]⟩
  rw [if_neg h2]
  refine .inr ?_
  have h2 : s.abortReq = false := Bool.eq_false_iff.2 h2
  by_cases h3 : s.maxatt ≠ 0 ∧ s.attempts = s.maxatt
  · exact .inl ⟨not_lt.1 h1, h2, .inl h3, by rw [if_pos h3]⟩
  rw [if_neg h3]
  by_cases h4 : s.nonce = 0xFFFFFFFF#32
  · exact .inl ⟨not_lt.1 h1, h2, .inr h4, by rw [if_pos h4]⟩
  · exact .inr ⟨not_lt.1 h1, h2, by tauto, h4, by rw [if_neg h4]⟩

/-- The attempt that meets the target. -/
theorem State.judgeAttempt_met (s : State) (h : meets s.acc s.diff.toNat = true) :
    s.judgeAttempt = State.finish .ok { s with digest := s.acc } := by
  rw [State.judgeAttempt, if_pos (show meets s.acc s.difficulty = true from h)]

/-- The attempt that fails. -/
theorem State.judgeAttempt_unmet (s : State) (h : meets s.acc s.diff.toNat = false) : s.judgeAttempt = s := by
  rw [State.judgeAttempt, if_neg (show ¬ meets s.acc s.difficulty = true from Bool.eq_false_iff.1 h)]

/-- The registers of an attempt before its verdict (41_hash_mining.md R171). -/
theorem State.mineHash_eq (s : State) :
    s.mineHash = { s with
      nonce := s.nonce + 1, attempts := s.attempts + 1
      cells := (s.hashOf (s.preimageOf (s.nonce + 1))).cells
      acc := (s.hashOf (s.preimageOf (s.nonce + 1))).acc
      pos := (s.hashOf (s.preimageOf (s.nonce + 1))).pos } := rfl

/-- A nonce that an attempt may take does not wrap (41_hash_mining.md R170). -/
theorem nonce_succ_toNat (n : Word) (h : n ≠ 0xFFFFFFFF#32) : (n + 1).toNat = n.toNat + 1 := by
  have h1 : n.toNat ≠ 0xFFFFFFFF := fun he => h (BitVec.eq_of_toNat_eq he)
  have h2 := n.isLt
  rw [BitVec.toNat_add]; simp; omega

end Sys2Proof.Machine
end

