-- ==== Sys2Proof/Laws/PerInstr.lean ====
section
/-!
SUPPORT. The family `ZeroField`: what bits 31:4 of the word of a well-formed command say (30_encoding.md R101, R105).
-/

namespace Sys2Proof.Laws.ZeroField

/-- Bits 31:4 of the word of `i` are 0 exactly when `i` has an opcode of its own, that is, when it is no `.illegal`. -/
def Statement (i : Instr) : Prop :=
  i.wf = true → ((encode i).extractLsb' 4 28 = 0#28 ↔ ∀ word, i ≠ .illegal word)

theorem nop : Statement .nop := fun _ => ⟨fun _ _ => Instr.noConfusion, fun _ => by decide⟩

theorem init : Statement .init := fun _ => ⟨fun _ _ => Instr.noConfusion, fun _ => by decide⟩

theorem evolve : Statement .evolve := fun _ => ⟨fun _ _ => Instr.noConfusion, fun _ => by decide⟩

theorem clracc : Statement .clracc := fun _ => ⟨fun _ _ => Instr.noConfusion, fun _ => by decide⟩

theorem absorb : Statement .absorb := fun _ => ⟨fun _ _ => Instr.noConfusion, fun _ => by decide⟩

theorem run : Statement .run := fun _ => ⟨fun _ _ => Instr.noConfusion, fun _ => by decide⟩

theorem hash : Statement .hash := fun _ => ⟨fun _ _ => Instr.noConfusion, fun _ => by decide⟩

theorem check : Statement .check := fun _ => ⟨fun _ _ => Instr.noConfusion, fun _ => by decide⟩

theorem mine : Statement .mine := fun _ => ⟨fun _ _ => Instr.noConfusion, fun _ => by decide⟩

theorem verify : Statement .verify := fun _ => ⟨fun _ _ => Instr.noConfusion, fun _ => by decide⟩

theorem abort : Statement .abort := fun _ => ⟨fun _ _ => Instr.noConfusion, fun _ => by decide⟩

theorem reservedB : Statement .reservedB := fun _ => ⟨fun _ _ => Instr.noConfusion, fun _ => by decide⟩

theorem reservedC : Statement .reservedC := fun _ => ⟨fun _ _ => Instr.noConfusion, fun _ => by decide⟩

theorem reservedD : Statement .reservedD := fun _ => ⟨fun _ _ => Instr.noConfusion, fun _ => by decide⟩

theorem reservedE : Statement .reservedE := fun _ => ⟨fun _ _ => Instr.noConfusion, fun _ => by decide⟩

theorem reservedF : Statement .reservedF := fun _ => ⟨fun _ _ => Instr.noConfusion, fun _ => by decide⟩

theorem illegal (word : Word) : Statement (.illegal word) := fun h =>
  ⟨fun h0 => absurd h0 (by simpa [Instr.wf, encode] using h), fun h0 => absurd rfl (h0 word)⟩

end Sys2Proof.Laws.ZeroField
end

