-- ==== Sys2Proof/Laws/Window.lean ====
section
/-!
SUPPORT. The packing of sequences into words (20_memory.md R72, R85), element by element, and the register map.
-/

namespace Sys2Proof.Machine

/-! ## Words of a sequence -/

theorem seqWord_getLsbD {n : Nat} (q : BitVec n) (j t : Nat) (h : 32 * (j + 1) ≤ n) (ht : t < 32) :
    (seqWord q j).getLsbD (31 - t) = q.getMsbD (32 * j + t) := by
  simp only [seqWord, BitVec.getLsbD_extractLsb', BitVec.getMsbD]
  rw [show n - 32 * (j + 1) + (31 - t) = n - 1 - (32 * j + t) by omega, decide_eq_true (show 31 - t < 32 by omega),
    decide_eq_true (show 32 * j + t < n by omega)]

theorem setSeqWord_getMsbD {n : Nat} (q : BitVec n) (j : Nat) (v : Word) (i : Nat) (h : 32 * (j + 1) ≤ n) (hi : i < n) :
    (setSeqWord q j v).getMsbD i = if i / 32 = j then v.getLsbD (31 - i % 32) else q.getMsbD i := by
  simp only [setSeqWord, BitVec.getMsbD, BitVec.getLsbD_or, BitVec.getLsbD_and, BitVec.getLsbD_not,
    BitVec.getLsbD_shiftLeft, BitVec.getLsbD_setWidth, BitVec.getLsbD_allOnes, decide_eq_true hi,
    decide_eq_true (show n - 1 - i < n by omega), Bool.true_and]
  by_cases hj : i / 32 = j
  · rw [if_pos hj, show n - 1 - i - (n - 32 * (j + 1)) = 31 - i % 32 by omega]
    simp [show ¬ (n - 1 - i < n - 32 * (j + 1)) by omega, show 31 - i % 32 < 32 by omega,
      show 31 - i % 32 < n by omega]
  · rw [if_neg hj]
    by_cases h1 : n - 1 - i < n - 32 * (j + 1)
    · simp [h1]
    · have h2 : ¬ n - 1 - i - (n - 32 * (j + 1)) < 32 := by omega
      simp [h1, h2, BitVec.getLsbD_of_ge v _ (not_lt.1 h2)]

theorem setMsgWord_getElem (m : Vector Byte 64) (j : Fin 16) (v : Word) (i : Nat) (hi : i < 64) :
    (setMsgWord m j v)[i] = if i / 4 = j.val then v.extractLsb' (24 - 8 * (i % 4)) 8 else m[i] := by
  simp only [setMsgWord, Vector.getElem_set]
  by_cases hj : i / 4 = j.val
  · rw [if_pos hj]
    obtain h | h | h | h : i = 4 * j.val ∨ i = 4 * j.val + 1 ∨ i = 4 * j.val + 2 ∨ i = 4 * j.val + 3 := by omega
    all_goals subst h; simp [Nat.add_mod]
  · rw [if_neg hj, if_neg (by omega), if_neg (by omega), if_neg (by omega), if_neg (by omega)]

/-- Two words that agree on every bit, counted from the most significant one, are equal. -/
theorem word_ext {a b : Word} (h : ∀ t, t < 32 → a.getLsbD (31 - t) = b.getLsbD (31 - t)) : a = b := by
  apply BitVec.eq_of_getLsbD_eq
  intro i hi
  have := h (31 - i) (by omega)
  rwa [show 31 - (31 - i) = i by omega] at this

/-- Cutting a word to `k` bits and extending it with zeros keeps the bits of a mask. -/
theorem setWidth_setWidth_eq_and (v : Word) (k : Nat) (hk : k ≤ 32) :
    (v.setWidth k).setWidth 32 = v &&& BitVec.ofNat 32 (2 ^ k - 1) := by
  apply BitVec.eq_of_toNat_eq
  have hp : 2 ^ k ≤ 2 ^ 32 := Nat.pow_le_pow_right (by decide) hk
  have h0 : 0 < 2 ^ k := Nat.two_pow_pos k
  rw [BitVec.toNat_and, BitVec.toNat_ofNat, BitVec.toNat_setWidth, BitVec.toNat_setWidth,
    Nat.mod_eq_of_lt (show 2 ^ k - 1 < 2 ^ 32 by omega), Nat.and_two_pow_sub_one_eq_mod]
  exact Nat.mod_eq_of_lt (lt_of_lt_of_le (Nat.mod_lt _ h0) hp)

/-! ## The map -/

theorem wordOffset_mod_four (addr : BitVec 12) : (addr &&& 0xFFC#12).toNat % 4 = 0 := by
  revert addr; decide +kernel

theorem targetOfWord_reserved (n : Nat) (h : 72 ≤ n) : targetOfWord n = .reserved := by
  unfold targetOfWord
  split <;> first | omega | (split_ifs <;> first | omega | rfl)

theorem targetAt_msg : ∀ j, j < 16 → targetAt (BitVec.ofNat 12 (0x040 + 4 * j)) = .msg (Fin.ofNat 16 j) := by decide

theorem targetAt_cells : ∀ j, j < 16 → targetAt (BitVec.ofNat 12 (0x080 + 4 * j)) = .cells (Fin.ofNat 16 j) := by decide

theorem targetAt_acc : ∀ j, j < 8 → targetAt (BitVec.ofNat 12 (0x0C0 + 4 * j)) = .acc (Fin.ofNat 8 j) := by decide

theorem targetAt_digest : ∀ j, j < 8 → targetAt (BitVec.ofNat 12 (0x0E0 + 4 * j)) = .digest (Fin.ofNat 8 j) := by decide

theorem targetAt_exp : ∀ j, j < 8 → targetAt (BitVec.ofNat 12 (0x100 + 4 * j)) = .exp (Fin.ofNat 8 j) := by decide

@[simp] theorem targetAt_cmd : targetAt 0x00C#12 = .cmd := by decide

@[simp] theorem targetAt_status : targetAt 0x008#12 = .status := by decide

@[simp] theorem targetAt_ctrl : targetAt 0x004#12 = .ctrl := by decide

end Sys2Proof.Machine
end

