-- ==== Sys2Proof/Tests/Slice0.lean ====
section
/-!
SUPPORT. Tests: expected values come from spec/95_test_vectors.md (the vector is named in each test) or are written out
by hand from the rule named; then, for each statement with hypotheses, a state and operands that meet them.
-/

namespace Sys2Proof.Tests

open Sys2Proof.Machine

set_option Elab.async false

/-! ## Well-formedness: every check refuses an ill-formed term (30_encoding.md R105) -/

theorem test_wf_refuses_an_opcode_word_as_illegal : (Instr.illegal 0x0000000B#32).wf = false := by decide

theorem test_wf_refuses_the_zero_word_as_illegal : (Instr.illegal 0x00000000#32).wf = false := by decide

theorem test_wf_accepts_a_word_with_a_high_bit : (Instr.illegal 0x00000010#32).wf = true := by decide

/-! ## Decoding: the word of each constructor, written from the opcode map (30_encoding.md R103, R105) -/

theorem test_decode_nop : decode 0b00000000000000000000000000000000#32 = .nop := by decide

theorem test_decode_init : decode 0b00000000000000000000000000000001#32 = .init := by decide

theorem test_decode_evolve : decode 0b00000000000000000000000000000010#32 = .evolve := by decide

theorem test_decode_clracc : decode 0b00000000000000000000000000000011#32 = .clracc := by decide

theorem test_decode_absorb : decode 0b00000000000000000000000000000100#32 = .absorb := by decide

theorem test_decode_run : decode 0b00000000000000000000000000000101#32 = .run := by decide

theorem test_decode_hash : decode 0b00000000000000000000000000000110#32 = .hash := by decide

theorem test_decode_check : decode 0b00000000000000000000000000000111#32 = .check := by decide

theorem test_decode_mine : decode 0b00000000000000000000000000001000#32 = .mine := by decide

theorem test_decode_verify : decode 0b00000000000000000000000000001001#32 = .verify := by decide

theorem test_decode_abort : decode 0b00000000000000000000000000001010#32 = .abort := by decide

theorem test_decode_reservedB : decode 0b00000000000000000000000000001011#32 = .reservedB := by decide

theorem test_decode_reservedC : decode 0b00000000000000000000000000001100#32 = .reservedC := by decide

theorem test_decode_reservedD : decode 0b00000000000000000000000000001101#32 = .reservedD := by decide

theorem test_decode_reservedE : decode 0b00000000000000000000000000001110#32 = .reservedE := by decide

theorem test_decode_reservedF : decode 0b00000000000000000000000000001111#32 = .reservedF := by decide

theorem test_decode_illegal_lowest_high_bit :
    decode 0b00000000000000000000000000010000#32 = .illegal 0x00000010#32 := by decide

/-- An ABORT with a high bit is no ABORT (XC6). -/
theorem test_decode_illegal_with_an_opcode :
    decode 0b00010000000000000000000000001010#32 = .illegal 0x1000000A#32 := by decide

theorem test_decodeTableWord_mine : decodeTableWord 32 0x00000008 = some .mine := by decide

theorem test_decodeTableWord_refuses_two_words : decodeTableWord 64 0x00000008 = none := by decide

theorem test_mnemonic_of_the_notation : commandOfMnemonic "MINE" = some .mine ∧ commandOfMnemonic "ILLEGAL" = none := by
  decide

/-! ## Small states -/

/-- Whether a transition answers a next state that passes a check. -/
def nextIs (o : Host.Outcome State Fault Refusal) (p : State → Bool) : Bool :=
  match o with
  | .next t => p t
  | .fault _ => false
  | .refused _ => false

/-- MSG = "abc", MLEN = 3, RULE = 30. -/
def abc : State := { State.reset with msg := setMsgWord State.reset.msg 0 0x61626300#32, mlen := 3, rule := 30 }

/-- MN1's digest: 01cc97fd 03000000, rest 0. -/
def mn1 : Digest := 0x01cc97fd03000000#64 ++ 0#192

/-- The CA state whose word 0 is `v`, rest 0. -/
def word0 (v : Word) : Cells 512 := v ++ 0#480

/-! ## Commands -/

theorem test_nop_completes_ok : nextIs (exec .nop abc) (fun t => t.statusWord == 0x102#32) = true := by decide +kernel

/-- IN2: the byte beyond MLEN is ignored. -/
theorem test_init_cuts_at_mlen :
    nextIs (exec .init { abc with mlen := 2 }) (fun t => t.cells == word0 0x61620000#32) = true := by decide +kernel

/-- IN4: MLEN = 65 loads all 64 bytes. -/
theorem test_init_of_64_bytes :
    nextIs (exec .init { abc with msg := Vector.replicate 64 0x41#8, mlen := 65 })
      (fun t => (List.range 16).all fun j => seqWord t.cells j == 0x41414141#32) = true := by decide +kernel

/-- Section 2.3: "abc" under RULE 30. -/
theorem test_evolve_rule30 :
    nextIs (exec .evolve { abc with cells := word0 0x61626300#32 }) (fun t => t.cells == word0 0xD357D680#32) = true := by
  decide +kernel

/-- Section 2.3: RULE 240 from cell 511 loses the cell; there is no wraparound. -/
theorem test_evolve_has_no_wraparound :
    nextIs (exec .evolve { abc with cells := 1, rule := 240 }) (fun t => t.cells == 0) = true := by decide +kernel

theorem test_clracc_clears :
    nextIs (exec .clracc { abc with acc := 5, pos := 7 }) (fun t => t.acc == 0 && t.pos == 0) = true := by decide +kernel

/-- AB2: cells 0 and 256 cancel, and cell 257 lands on position 1. -/
theorem test_absorb_folds :
    nextIs (exec .absorb { abc with cells := 0x80000000#32 ++ 0#224 ++ 0xC0000000#32 ++ 0#224 })
      (fun t => t.acc == 0x40000000#32 ++ 0#224) = true := by decide +kernel

/-- 40_ca_engine.md R124 by hand: with POS = 255, cell 0 goes to position 255 and cell 1 wraps to position 0. -/
theorem test_absorb_wraps_at_255 :
    nextIs (exec .absorb { abc with cells := word0 0xC0000000#32, pos := 255 })
      (fun t => t.acc.getMsbD 255 && t.acc.getMsbD 0 && t.pos == 255) = true := by decide +kernel

/-- RN2. -/
theorem test_run_two_steps :
    nextIs (exec .run { abc with cells := word0 0x61626300#32, steps := 2 })
      (fun t => t.cells == word0 0x9E5414C0#32 && t.acc == 0x4D03C240#32 ++ 0#224) = true := by decide +kernel

/-- RN4. -/
theorem test_run_of_no_steps :
    nextIs (exec .run { abc with cells := 5, acc := 9 }) (fun t => t.cells == 5 && t.acc == 9) = true := by decide +kernel

/-- HS11. -/
theorem test_hash_abc :
    nextIs (exec .hash { abc with steps := 16 }) (fun t => t.digest == 0x76AA9AA62D000000#64 ++ 0#192) = true := by
  decide +kernel

/-- HS6a: a boundary of both ends. -/
theorem test_hash_of_the_empty_message :
    nextIs (exec .hash { State.reset with rule := 129, steps := 2 })
      (fun t => t.digest == 0x80000000#32 ++ 0#192 ++ 0x00000001#32) = true := by decide +kernel

/-- CK12, CK13: the last hex digit. -/
theorem test_check_last_digit :
    nextIs (exec .check { abc with exp := 1, diff := 63 }) (fun t => t.statusWord == 0x102#32) = true ∧
    nextIs (exec .check { abc with exp := 1, diff := 64 }) (fun t => t.statusWord == 0x202#32) = true := by decide +kernel

/-- CK4: DIFF > 64 is never met. -/
theorem test_check_of_65_digits :
    nextIs (exec .check { abc with diff := 65 }) (fun t => t.statusWord == 0x202#32) = true := by decide +kernel

/-- MN1: the first nonce hashed is 1. MN4, first step: a failed attempt keeps DIGEST and stays busy. -/
theorem test_mine_attempts :
    nextIs (exec .mine { abc with op := some .mine, steps := 8, diff := 1 })
      (fun t => t.nonce == 1 && t.attempts == 1 && t.digest == mn1 && t.statusWord == 0x102#32) = true ∧
    nextIs (exec .mine { abc with op := some .mine, nonce := 1, steps := 8, diff := 2, maxatt := 1, digest := mn1 })
      (fun t => t.nonce == 2 && t.acc == 0x01CC97F136000000#64 ++ 0#192 && t.digest == mn1 && t.statusWord == 0x001#32) =
      true := by decide +kernel

/-- MN6a ends EXHAUSTED, XC9 ABORTED and MN7 BAD_DIFF, each without an attempt. -/
theorem test_mine_stops :
    nextIs (exec .mine { abc with op := some .mine, nonce := 0xFFFFFFFF, steps := 8, diff := 1 })
      (fun t => t.nonce == 0xFFFFFFFF#32 && t.attempts == 0 && t.statusWord == 0x402#32) = true ∧
    nextIs (exec .mine { abc with op := some .mine, abortReq := true, steps := 8, diff := 1 })
      (fun t => t.nonce == 0 && t.attempts == 0 && t.statusWord == 0x502#32) = true ∧
    nextIs (exec .mine { abc with op := some .mine, steps := 8, diff := 65 })
      (fun t => t.nonce == 0 && t.attempts == 0 && t.statusWord == 0x702#32) = true := by decide +kernel

/-- VF6. -/
theorem test_verify_ok :
    nextIs (exec .verify { abc with nonce := 1, steps := 8, exp := mn1, diff := 1 })
      (fun t => t.statusWord == 0x102#32 && t.acc == mn1) = true := by decide +kernel

/-- VF8: MISMATCH wins over UNMET. -/
theorem test_verify_mismatch_first :
    nextIs (exec .verify { abc with nonce := 1, steps := 8, exp := 0x01CC97FD#32 ++ 0#224, diff := 65 })
      (fun t => t.statusWord == 0x302#32 && t.acc == mn1) = true := by decide +kernel

/-- XC1. -/
theorem test_abort_while_idle : nextIs (exec .abort abc) (fun t => t.statusWord == 0x102#32) = true := by decide +kernel

/-- XC3, XC4. -/
theorem test_reserved_opcodes :
    ([Instr.reservedB, .reservedC, .reservedD, .reservedE, .reservedF].all fun i =>
      nextIs (exec i abc) (fun t => t.statusWord == 0x602#32)) = true := by decide +kernel

/-- XC5. -/
theorem test_illegal_word :
    nextIs (exec (decode 0x00000010#32) abc) (fun t => t.statusWord == 0x602#32) = true := by decide +kernel

/-! ## Host transactions -/

/-- A state with EVOLVE just accepted (BUS20). -/
def busyEvolve : State := { abc with op := some .evolve }

/-- BUS17. -/
theorem test_status_write_clears_done_only :
    (({ abc with done := true, cerr := true, werr := true, result := .ok } : State).transact
      (.write 0x008#12 0x2#32)).statusWord = 0x10C#32 := by decide +kernel

/-- BUS23, BUS25. -/
theorem test_dropped_writes :
    ((busyEvolve.transact (.write 0x010#12 1#32)).transact (.write 0x00C#12 0#32)).statusWord = 0x00D#32 ∧
    (busyEvolve.transact (.write 0x010#12 1#32)).rule = 30 := by decide +kernel

/-- BUS13. -/
theorem test_msg_is_big_endian :
    let s := abc.transact (.write 0x044#12 0x01020304#32)
    s.msg[4] = 0x01#8 ∧ s.msg[7] = 0x04#8 ∧ (s.transact (.read 0x044#12)).rdata = some 0x01020304#32 := by decide +kernel

/-- P1: LDMSG "abc" is the two writes (1,0x040,0x61626300) and (1,0x01C,0x00000003). -/
theorem test_ldmsg_events :
    (Line.ldmsg [0x61#8, 0x62#8, 0x63#8]).events =
      [.host (.write 0x040#12 0x61626300#32), .host (.write 0x01C#12 0x00000003#32)] := by decide +kernel

/-- 20_memory.md R70, 70_reset_and_hazards.md R242: the ports that present an operation, alone and under reset. -/
theorem test_ports_event :
    (HostOp.write 0x00C#12 6#32).ports.event = some (.host (.write 0x00C#12 6#32)) ∧
    (HostOp.read 0x008#12).ports.event = some (.host (.read 0x008#12)) ∧
    ({ (HostOp.write 0x00C#12 6#32).ports with rst := true } : Ports).event = some .reset := by decide

/-- RS2: a reset abandons a MINE. -/
theorem test_reset_abandons_a_mine :
    nextIs (step { abc with op := some .mine, pending := [.reset] }) (fun t => t == State.reset) = true := by decide +kernel

/-- The step after `withFetchWord` runs the command of the table word. -/
theorem test_withFetchWord_runs_the_command :
    nextIs (step (abc.withFetchWord 32 0x00000001)) (fun t => t.cells == word0 0x61626300#32 && t.statusWord == 0x102#32) =
      true := by decide +kernel

/-! ## Worked examples of the reference functions -/

/-- EX1, with five cells. -/
theorem test_reference_boundary_evolution :
    refEvolve (0b00100#5) 30 = 0b01110#5 ∧ evolve (0b00100#5) 30 = 0b01110#5 := by decide +kernel

/-- Section 2.8: dec. -/
theorem test_dec :
    dec 0 = [0x30#8] ∧ dec 10 = [0x31#8, 0x30#8] ∧
    dec 4294967295 = [0x34, 0x32, 0x39, 0x34, 0x39, 0x36, 0x37, 0x32, 0x39, 0x35] := by decide +kernel

/-! ## Witnesses: a MINE whose second attempt is the first to succeed -/

/-- RULE 204 keeps every state and STEPS = 1, so DIGEST is the preimage folded at byte 32. MSG byte 0 is 0x30; the nonce
stands at bytes 31 and 32. Nonce 9 has no byte 32, so hex digit 0 is 3; nonce 10 has the byte 0x30 there, so it is 0. -/
def twoAttempts : State :=
  { State.reset with
    op := some .mine, rule := 204, steps := 1, diff := 1, mlen := 31, nonce := 8, maxatt := 2
    msg := State.reset.msg.set 0 0x30#8 }

theorem twoAttempts_acc (n : Word) (k : Nat) (hk : k < 256) :
    (twoAttempts.refHashAt n).acc.getMsbD k =
      xorRange (fun j => (refEvolve (refInit 512 (twoAttempts.preimageOf n)) 204).getMsbD j && k == (0 + j) % 256) 512 := by
  rw [State.refHashAt, show twoAttempts.steps.toNat = 0 + 1 from rfl, refHash, refRun, refRun,
    refAbsorb_acc_getMsbD _ _ hk, show twoAttempts.rule = 204 from rfl]
  simp

theorem twoAttempts_digit (n : Word) (a b c d : Bool)
    (h : [0, 1, 2, 3].map (fun k => xorRange (fun j =>
      (refEvolve (refInit 512 (twoAttempts.preimageOf n)) 204).getMsbD j && k == (0 + j) % 256) 512) = [a, b, c, d]) :
    hexDigit (twoAttempts.refHashAt n).acc 0 = 8 * a.toNat + 4 * b.toNat + 2 * c.toNat + d.toNat := by
  simp only [List.map_cons, List.map_nil, List.cons.injEq] at h
  simp only [hexDigit, Nat.mul_zero, Nat.zero_add]
  rw [twoAttempts_acc _ _ (by decide), twoAttempts_acc _ _ (by decide), twoAttempts_acc _ _ (by decide),
    twoAttempts_acc _ _ (by decide), h.1, h.2.1, h.2.2.1, h.2.2.2.1]

theorem twoAttempts_first_fails : ¬ refMeets (twoAttempts.refHashAt (twoAttempts.attemptNonce 1)).acc 1 := by
  rintro ⟨_, h⟩
  have h0 := h 0 (by decide)
  rw [twoAttempts_digit _ false false true true (by decide +kernel)] at h0
  exact absurd h0 (by decide)

theorem twoAttempts_second_succeeds : refMeets (twoAttempts.refHashAt (twoAttempts.attemptNonce 2)).acc 1 := by
  refine ⟨by decide, fun k hk => ?_⟩
  rw [show k = 0 by omega, twoAttempts_digit _ false false false false (by decide +kernel)]
  rfl

theorem twoAttempts_inv : twoAttempts.Inv := by
  constructor <;> decide +kernel

/-- The same MINE, allowed one attempt. -/
def oneAttempt : State := { twoAttempts with maxatt := 1 }

theorem oneAttempt_inv : oneAttempt.Inv := by
  constructor <;> decide +kernel

/-- The same MINE at the last nonce. -/
def lastNonce : State := { twoAttempts with nonce := 0xFFFFFFFF }

theorem lastNonce_inv : lastNonce.Inv := by
  constructor <;> decide +kernel

/-! ## Witnesses, one for each statement with hypotheses -/

theorem witness_DecodeEncodeAgree : (Instr.illegal 0x00000010#32).wf = true ∧ Instr.reservedF.wf = true := by decide

theorem witness_IllegalCompletion :
    0xA < (0x0000000B#32).toNat ∧ 0xA < (0x00000010#32).toNat ∧ ∃ w, decode 0x00000010#32 = .illegal w :=
  ⟨by decide, by decide, _, rfl⟩

theorem witness_NopAndIdleAbortComplete : ∃ i : Instr, i = .nop ∨ i = .abort := ⟨.abort, .inr rfl⟩

/-- The last bit of the effective message and the first cell past it. -/
theorem witness_InitLoadsTheEffectiveMessage : 23 < 8 * min abc.mlen.toNat 64 ∧ ¬ 24 < 8 * min abc.mlen.toNat 64 := by
  decide +kernel

theorem witness_EvolveOfTheShiftRules :
    [204, 240, 170, 0, 255].all (fun r => ({ abc with rule := r } : State).rule == r) = true := by decide +kernel

theorem witness_AbsorbFoldsBothHalves : abc.pos = 0 := rfl

theorem witness_RunOfStepsAdd : (0x80000000#32).toNat + (0x7FFFFFFF#32).toNat < 2 ^ 32 := by decide

/-- Two states of four cells that differ in cell 2 only: cell 0 cannot tell after one step. -/
theorem witness_CellLightCone :
    ∃ (h h' : HashRegs 4) (i t : Nat), i < 4 ∧ h ≠ h' ∧
      ∀ j : Nat, j < 4 → i ≤ j + t → j ≤ i + t → h.cells.getMsbD j = h'.cells.getMsbD j :=
  ⟨⟨0b0000#4, 0, 0⟩, ⟨0b0010#4, 0, 0⟩, 0, 1, by decide, by decide, by decide⟩

/-- Two states that differ in cell 100 only: digest bit 0 cannot tell after ten steps. -/
theorem witness_DigestLightCone :
    ∃ (S S' : Cells 512) (n k : Nat), k < 256 ∧ S ≠ S' ∧
      ∀ j : Nat, j < 512 → k ≤ j + n ∧ j ≤ k + n ∨ k + 256 ≤ j + n ∧ j ≤ k + 256 + n → S.getMsbD j = S'.getMsbD j :=
  ⟨0, 1#512 <<< 411, 10, 0, by decide, by decide +kernel, by decide +kernel⟩

/-- Two messages that differ beyond MLEN, with MLEN 64 and 65 in the second pair. -/
theorem witness_HashIsDeterminedByTheEffectiveMessage :
    let s' := { abc with msg := setMsgWord State.reset.msg 0 0x616263FF#32 }
    s' ≠ abc ∧ min abc.mlen.toNat 64 = min s'.mlen.toNat 64 ∧ abc.rule = s'.rule ∧ abc.steps = s'.steps ∧
    (∀ (k : Nat) (_ : k < 64), k < min abc.mlen.toNat 64 → abc.msg[k] = s'.msg[k]) ∧
    min ({ abc with mlen := 64 } : State).mlen.toNat 64 = min ({ abc with mlen := 65 } : State).mlen.toNat 64 := by
  decide +kernel

theorem witness_HashOfTheEmptyMessage :
    (let s : State := { State.reset with rule := 30 }; s.mlen = 0 ∧ s.rule.getLsbD 0 = false) ∧
    (let s : State := { State.reset with rule := 1 };
      s.mlen = 0 ∧ s.rule.getLsbD 0 = true ∧ s.rule.getLsbD 3 = s.rule.getLsbD 6 ∧
        s.rule.getLsbD 6 = s.rule.getLsbD 7) := by decide +kernel

theorem witness_HashOfNoStepsAndOfRuleZero :
    abc.steps = 0 ∧ ({ abc with steps := 1, rule := 0 } : State).steps ≠ 0 ∧
    ({ abc with steps := 1, rule := 0 } : State).rule = 0 := by decide +kernel

/-- DIFF at the ends of the range of the numeric form. -/
theorem witness_MeetsInItsForms :
    (0 ≤ 64 ∧ meets (BitVec.allOnes 256) 0 = true) ∧ (64 ≤ 64 ∧ meets 1 64 = false ∧ meets 0 64 = true) ∧
    meets 0 65 = false := by decide +kernel

theorem witness_DecSpellsTheNonce : (dec 0).head? = some 0x30#8 := by decide

/-- MLEN at both sides of 64. -/
theorem witness_PreimageIsPrefixThenNonce :
    (let s : State := { abc with mlen := 64 }; 64 ≤ s.mlen.toNat) ∧
    (let s : State := { abc with mlen := 63 }; s.mlen.toNat < 64 ∧ 62 < s.mlen.toNat ∧ s.mlen.toNat + 0 < 64) := by
  decide +kernel

/-- At MLEN = 54 every nonce is hashed whole; at 63 two nonces that agree in their first digit are not told apart. -/
theorem witness_NonceInTheMessageWindow :
    ({ abc with mlen := 54 } : State).mlen.toNat ≤ 54 ∧ 64 ≤ ({ abc with mlen := 64 } : State).mlen.toNat ∧
    (dec 1).take (64 - ({ abc with mlen := 63 } : State).mlen.toNat) =
      (dec 10).take (64 - ({ abc with mlen := 63 } : State).mlen.toNat) := by decide +kernel

/-- The four clauses, each at a boundary value. -/
theorem witness_MineStopsInPriorityOrder :
    (let s : State := { twoAttempts with diff := 65 }; 64 < s.diff.toNat) ∧
    (let s : State := { twoAttempts with diff := 64, abortReq := true }; s.diff.toNat ≤ 64 ∧ s.abortReq = true) ∧
    (let s : State := { twoAttempts with diff := 64, attempts := 2 };
      s.diff.toNat ≤ 64 ∧ s.abortReq = false ∧ s.maxatt ≠ 0 ∧ s.attempts = s.maxatt) ∧
    (let s : State := { twoAttempts with diff := 64, nonce := 0xFFFFFFFF };
      s.diff.toNat ≤ 64 ∧ s.abortReq = false ∧ (s.maxatt = 0 ∨ s.attempts ≠ s.maxatt) ∧ s.nonce = 0xFFFFFFFF#32) := by
  decide +kernel

/-- Both outcomes of an attempt: nonce 9 fails, nonce 10 succeeds. -/
theorem witness_MineAttempt :
    (twoAttempts.diff.toNat ≤ 64 ∧ twoAttempts.abortReq = false ∧
      (twoAttempts.maxatt = 0 ∨ twoAttempts.attempts ≠ twoAttempts.maxatt) ∧ twoAttempts.nonce ≠ 0xFFFFFFFF#32 ∧
      ¬ refMeets (twoAttempts.refHashAt (twoAttempts.nonce + 1)).acc twoAttempts.diff.toNat) ∧
    ({ twoAttempts with nonce := 9 } : State).nonce ≠ 0xFFFFFFFF#32 ∧
    refMeets (({ twoAttempts with nonce := 9 } : State).refHashAt (({ twoAttempts with nonce := 9 } : State).nonce + 1)).acc
      ({ twoAttempts with nonce := 9 } : State).diff.toNat :=
  ⟨⟨by decide +kernel, rfl, by decide +kernel, by decide +kernel, twoAttempts_first_fails⟩, by decide +kernel,
    twoAttempts_second_succeeds⟩

theorem witness_MineFindsTheFirstNonce :
    twoAttempts.Inv ∧ twoAttempts.op = some .mine ∧ twoAttempts.pending = [] ∧ twoAttempts.abortReq = false ∧
    twoAttempts.diff.toNat ≤ 64 ∧ 1 ≤ 2 ∧ 2 ≤ twoAttempts.attemptsLeft ∧
    refMeets (twoAttempts.refHashAt (twoAttempts.attemptNonce 2)).acc twoAttempts.diff.toNat ∧
    ∀ j : Nat, 1 ≤ j → j < 2 →
      ¬ refMeets (twoAttempts.refHashAt (twoAttempts.attemptNonce j)).acc twoAttempts.diff.toNat :=
  ⟨twoAttempts_inv, rfl, rfl, rfl, by decide +kernel, by decide, by decide +kernel, twoAttempts_second_succeeds,
    fun j h1 h2 => by rw [show j = 1 by omega]; exact twoAttempts_first_fails⟩

/-- One attempt left, which fails; and none left, at the last nonce. -/
theorem witness_MineExhaustsItsAttempts :
    (oneAttempt.Inv ∧ oneAttempt.op = some .mine ∧ oneAttempt.pending = [] ∧ oneAttempt.abortReq = false ∧
      oneAttempt.diff.toNat ≤ 64 ∧ oneAttempt.attemptsLeft ≠ 0 ∧
      ∀ j : Nat, 1 ≤ j → j ≤ oneAttempt.attemptsLeft →
        ¬ refMeets (oneAttempt.refHashAt (oneAttempt.attemptNonce j)).acc oneAttempt.diff.toNat) ∧
    (lastNonce.Inv ∧ lastNonce.op = some .mine ∧ lastNonce.pending = [] ∧ lastNonce.abortReq = false ∧
      lastNonce.diff.toNat ≤ 64 ∧ lastNonce.attemptsLeft = 0 ∧
      ∀ j : Nat, 1 ≤ j → j ≤ lastNonce.attemptsLeft →
        ¬ refMeets (lastNonce.refHashAt (lastNonce.attemptNonce j)).acc lastNonce.diff.toNat) :=
  ⟨⟨oneAttempt_inv, rfl, rfl, rfl, by decide +kernel, by decide +kernel, fun j h1 h2 => by
    have hl : oneAttempt.attemptsLeft = 1 := by decide +kernel
    rw [show j = 1 by omega]; exact twoAttempts_first_fails⟩,
   ⟨lastNonce_inv, rfl, rfl, rfl, by decide +kernel, by decide +kernel, fun j h1 h2 => by
    have hl : lastNonce.attemptsLeft = 0 := by decide +kernel
    omega⟩⟩

theorem witness_MineEndsWithinItsAttempts :
    twoAttempts.Inv ∧ twoAttempts.op = some .mine ∧ twoAttempts.pending = [] := ⟨twoAttempts_inv, rfl, rfl⟩

/-- With STEPS = 0 and DIFF = 0 the first attempt succeeds (RS4). -/
theorem witness_VerifyConfirmsAMine :
    ∃ s t : State, s.op = some .mine ∧ exec .mine s = .next t ∧ t.op = none ∧ t.result = .ok :=
  ⟨{ State.reset with op := some .mine }, State.mineAttempt { State.reset with op := some .mine }, rfl, rfl, by
    decide +kernel⟩

theorem witness_VerifyMissesAnUnhashedNonce :
    (12345#32 : Word) ≠ 12346 ∧ (dec 12345).take (64 - ({ abc with mlen := 60 } : State).mlen.toNat) =
      (dec 12346).take (64 - ({ abc with mlen := 60 } : State).mlen.toNat) := by decide +kernel

theorem witness_AbortEndsAMine :
    twoAttempts.op = some .mine ∧ twoAttempts.diff.toNat ≤ 64 ∧
    ({ twoAttempts with abortReq := true } : State).abortReq = true := ⟨rfl, by decide +kernel, rfl⟩

theorem witness_CommandWriteIsAccepted : abc.op = none := rfl

theorem witness_CommandWriteWhileBusy :
    twoAttempts.op = some .mine ∧ busyEvolve.op = some .evolve ∧
    ¬ ((0x0000000A#32 : Word) = 0x0000000A#32 ∧ Instr.evolve = .mine) := by decide +kernel

theorem witness_StepRunsTheLatchedCommand :
    (busyEvolve.nextEvent = .engine ∧ busyEvolve.op = some .evolve) ∧ decodeTableWord 32 8 = some .mine ∧
    (let s : State := { abc with pending := [.host (.write 0x00C#12 2#32), .engine] };
      s.op = none ∧ s.pending = .host (.write 0x00C#12 2#32) :: .engine :: []) :=
  ⟨⟨rfl, rfl⟩, by decide, rfl, rfl⟩

/-- An idle engine, with nothing scheduled and with its turn scheduled. -/
theorem witness_EveryStepAnswersNext :
    (abc.nextEvent = .engine ∧ abc.op = none) ∧
    (let s : State := { abc with pending := [.engine, .reset] }; s.nextEvent = .engine ∧ s.op = none) :=
  ⟨⟨rfl, rfl⟩, rfl, rfl⟩

theorem witness_OtherCommandsCompleteInOneTransition : Instr.verify ≠ .mine := by decide

theorem witness_EngineWritesOnlyItsRegisters :
    ∃ t, exec .evolve busyEvolve = .next t ∧ Target.engineWritten .maxatt = false ∧ Target.maxatt ≠ .status :=
  ⟨_, rfl, rfl, by decide⟩

/-- HASH "abc" changes DIGEST; so does a MINE whose attempt succeeds. -/
theorem witness_DigestIsWrittenOnlyBySuccess :
    nextIs (exec .hash { abc with steps := 1 }) (fun t => t.digest != abc.digest) = true ∧
    nextIs (exec .mine { abc with op := some .mine, steps := 8, diff := 1 }) (fun t => t.digest != abc.digest) = true := by
  decide +kernel

theorem witness_OperandsAreFixedWhileBusy :
    ∃ t, busyEvolve.busy = true ∧ busyEvolve.nextEvent ≠ .reset ∧ step busyEvolve = .next t :=
  ⟨_, rfl, by decide +kernel, rfl⟩

/-- A STATUS write, and a CMD write of NOP, each just before the transition that completes an EVOLVE. -/
theorem witness_WriteThenCompletionLosesNothing :
    (let s : State := { busyEvolve with pending := [.host (.write 0x008#12 2#32), .engine] };
      s.op = some .evolve ∧ s.pending = .host (.write 0x008#12 2#32) :: .engine :: [] ∧
      ∃ c, exec .evolve s.advance.advance = .next c ∧ c.op = none) ∧
    (let s : State := { busyEvolve with pending := [.host (.write 0x00C#12 0#32), .engine] };
      s.op = some .evolve ∧ ¬ ((0#32 : Word) = 0x0000000A#32 ∧ Instr.evolve = .mine) ∧
      s.pending = .host (.write 0x00C#12 0#32) :: .engine :: [] ∧
      ∃ c, exec .evolve s.advance.advance = .next c ∧ c.op = none) :=
  ⟨⟨rfl, rfl, _, rfl, rfl⟩, rfl, by decide, rfl, _, rfl, rfl⟩

theorem witness_RegisterMapRoundTrip :
    (Target.exp 7).offset = some 0x11C#12 ∧ (Target.cells 15).offset = some 0x0BC#12 ∧ Target.offset .id = some 0#12 := by
  decide

theorem witness_LowAddressBitsAreIgnored :
    ({ busyEvolve with pending := [.host (.read 0x013#12)] } : State).pending = .host (.read 0x013#12) :: [] := rfl

theorem witness_WriteThenReadKeepsTheField :
    abc.busy = false ∧ Target.keptBits .mlen = some 0x0000FFFF#32 ∧ Target.id ≠ .mlen := by decide +kernel

theorem witness_ArrayWritesAreMsbFirst : abc.busy = false := rfl

/-- A state with each outcome code. -/
theorem witness_StatusWordFields :
    ∀ c : ResultCode, ∃ s : State, s.result = c := fun c => ⟨{ abc with result := c }, rfl⟩

theorem witness_ReadsChangeNoRegister : Target.engineWritten (.exp 0) = false := rfl

/-- The boundary offsets of each range, low bits set. -/
theorem witness_DroppedWritesSetWerr :
    busyEvolve.busy = true ∧
    [0x010#12, 0x027#12, 0x040#12, 0x0BF#12, 0x100#12, 0x11F#12].all (fun addr =>
      let a := (addr &&& 0xFFC#12).toNat
      decide (0x010 ≤ a ∧ a ≤ 0x024 ∨ 0x040 ≤ a ∧ a < 0x0C0 ∨ 0x100 ≤ a ∧ a < 0x120)) = true := by decide +kernel

theorem witness_IgnoredWrites :
    [0x003#12, 0x028#12, 0x03F#12, 0x0C0#12, 0x0FF#12, 0x120#12, 0xFFF#12].all (fun addr =>
      let a := (addr &&& 0xFFC#12).toNat
      decide (a = 0x000 ∨ 0x028 ≤ a ∧ a < 0x040 ∨ 0x0C0 ≤ a ∧ a < 0x100 ∨ 0x120 ≤ a)) = true ∧
    [0x02C#12, 0x03F#12, 0x120#12, 0xFFF#12].all (fun addr =>
      let a := (addr &&& 0xFFC#12).toNat
      decide (0x02C ≤ a ∧ a < 0x040 ∨ 0x120 ≤ a)) = true := by decide +kernel

theorem witness_BusyReadsAreFree :
    busyEvolve.busy = true ∧
    [0x020#12, 0x02B#12, 0x080#12, 0x0FF#12].all (fun addr =>
      let a := (addr &&& 0xFFC#12).toNat
      decide (a = 0x020 ∨ a = 0x028 ∨ 0x080 ≤ a ∧ a < 0x100)) = true := by decide +kernel

theorem witness_ExactReads : abc.busy = false := rfl

theorem witness_ResetEventLeavesTheResetState :
    ({ twoAttempts with pending := [.reset] } : State).nextEvent = .reset := rfl

theorem witness_StepKeepsTheInvariant : ∃ t, twoAttempts.Inv ∧ step twoAttempts = .next t := ⟨_, twoAttempts_inv, rfl⟩

end Sys2Proof.Tests
end

section
/-!
SUPPORT. What an engine transition can do, said once for all commands; the two statements about what it writes.
-/

namespace Sys2Proof.Machine

/-! ## POS (10_state.md R56) -/

/-- An absorption of 512 cells leaves POS as it was. -/
theorem absorb_pos_width (h : HashRegs Config.W) : (absorb h).pos = h.pos := by
  rw [absorb_pos, show BitVec.ofNat 8 Config.W = 0#8 by decide, BitVec.add_zero]

theorem runSteps_pos_width (rule : BitVec 8) (n : Nat) (h : HashRegs Config.W) : (runSteps rule n h).pos = h.pos := by
  induction n generalizing h with
  | zero => rfl
  | succ n ih =>
    rw [runSteps_succ, ih]
    exact absorb_pos_width _

@[simp] theorem State.hashOf_pos (s : State) (m : List Byte) : (s.hashOf m).pos = 0 := runSteps_pos_width _ _ _

/-! ## Completions -/

/-- The engine transition of `i` from `s` to `t` completed the command: beside what `finish` does it wrote at most S,
ACC, POS and DIGEST (60_exceptions.md R204). -/
structure Completed (i : Instr) (s t : State) : Prop where
  /-- Nothing else changed, and STATUS and the latches are as `finish` leaves them. -/
  frame : t = State.finish t.result { s with cells := t.cells, acc := t.acc, pos := t.pos, digest := t.digest }
  /-- The outcome is a code of 60_exceptions.md R205, not NONE. -/
  result_ne_none : t.result ≠ .none
  /-- POS stays 0 (10_state.md R56). -/
  pos_zero : s.pos = 0 → t.pos = 0
  /-- DIGEST is written by HASH only (10_state.md R50). -/
  digest_cases : t.digest = s.digest ∨ i = .hash ∧ t.result = .ok ∧ t.digest = t.acc

/-- A command that replaces the working registers and finishes. -/
theorem completed_setHashRegs (i : Instr) (s : State) (h : HashRegs Config.W) (c : ResultCode) (hc : c ≠ .none)
    (hpos : s.pos = 0 → h.pos = 0) : Completed i s ((s.setHashRegs h).finish c) :=
  ⟨rfl, hc, hpos, .inl rfl⟩

/-- A command that only finishes. -/
theorem completed_finish (i : Instr) (s : State) (c : ResultCode) (hc : c ≠ .none) : Completed i s (s.finish c) :=
  completed_setHashRegs i s s.hashRegs c hc id

theorem State.verdict_ne_none (s : State) (d : Digest) : s.verdict d ≠ .none := by
  unfold State.verdict
  split_ifs <;> decide

/-- What an engine transition can do: complete its command, or make one attempt of a MINE whose four checks passed
(41_hash_mining.md R170, R171). -/
theorem exec_cases {i : Instr} {s t : State} (h : exec i s = .next t) :
    Completed i s t ∨
    (i = .mine ∧ s.diff.toNat ≤ 64 ∧ (s.maxatt = 0 ∨ s.attempts ≠ s.maxatt) ∧ s.nonce ≠ 0xFFFFFFFF#32 ∧
      t = s.mineAttempt) := by
  cases i with
  | mine =>
    obtain ⟨-, he⟩ | ⟨-, -, he⟩ | ⟨-, -, -, he⟩ | ⟨hdiff, -, hcap, hnonce, he⟩ := execMine_cases s <;>
      obtain rfl := Host.Outcome.next.inj (he.symm.trans h)
    · exact .inl (completed_finish _ _ _ (by decide))
    · exact .inl (completed_finish _ _ _ (by decide))
    · exact .inl (completed_finish _ _ _ (by decide))
    · exact .inr ⟨rfl, hdiff, hcap, hnonce, rfl⟩
  | hash =>
    obtain rfl := Host.Outcome.next.inj h
    exact .inl ⟨rfl, show ResultCode.ok ≠ .none by decide, fun _ => s.hashOf_pos _, .inr ⟨rfl, rfl, rfl⟩⟩
  | init | evolve =>
    obtain rfl := Host.Outcome.next.inj h
    exact .inl (completed_setHashRegs _ _ { s.hashRegs with cells := _ } _ (by decide) id)
  | clracc =>
    obtain rfl := Host.Outcome.next.inj h
    exact .inl (completed_setHashRegs _ _ { s.hashRegs with acc := 0, pos := 0 } _ (by decide) fun _ => rfl)
  | absorb =>
    obtain rfl := Host.Outcome.next.inj h
    exact .inl (completed_setHashRegs _ _ _ _ (by decide) (absorb_pos_width s.hashRegs).trans)
  | run =>
    obtain rfl := Host.Outcome.next.inj h
    exact .inl (completed_setHashRegs _ _ _ _ (by decide) (runSteps_pos_width _ _ s.hashRegs).trans)
  | verify =>
    obtain rfl := Host.Outcome.next.inj h
    exact .inl (completed_setHashRegs _ _ _ _ (s.verdict_ne_none _) fun _ => s.hashOf_pos _)
  | check =>
    obtain rfl := Host.Outcome.next.inj h
    exact .inl (completed_finish _ _ _ (by split_ifs <;> decide))
  | nop | abort | reservedB | reservedC | reservedD | reservedE | reservedF | illegal =>
    obtain rfl := Host.Outcome.next.inj h
    exact .inl (completed_finish _ _ _ (by decide))

/-! ## A MINE attempt (41_hash_mining.md R171) -/

/-- What an attempt can do: meet the target and complete, or fail and leave the command latched. -/
theorem State.mineAttempt_cases (s : State) :
    (meets s.mineHash.acc s.diff.toNat = true ∧
      s.mineAttempt = State.finish .ok { s.mineHash with digest := s.mineHash.acc }) ∨
    (meets s.mineHash.acc s.diff.toNat = false ∧ s.mineAttempt = s.mineHash) := by
  cases hm : meets s.mineHash.acc s.diff.toNat
  · exact .inr ⟨rfl, s.mineHash.judgeAttempt_unmet hm⟩
  · exact .inl ⟨rfl, s.mineHash.judgeAttempt_met hm⟩

/-! ## The frame of an engine transition -/

/-- An engine transition writes at most the engine-written registers, BUSY, DONE, RESULT and the hidden latches
(10_state.md R30). -/
theorem exec_frame {i : Instr} {s t : State} (h : exec i s = .next t) :
    t = { s with
      done := t.done, result := t.result, nonce := t.nonce, attempts := t.attempts, cells := t.cells, acc := t.acc
      digest := t.digest, pos := t.pos, op := t.op, abortReq := t.abortReq } := by
  obtain hc | ⟨-, -, -, -, rfl⟩ := exec_cases h
  · rw [hc.frame]
    rfl
  · obtain ⟨-, he⟩ | ⟨-, he⟩ := s.mineAttempt_cases
    · rw [he]
      rfl
    · rw [he]
      rfl

/-- A word of the window outside STATUS and the engine-written registers reads none of the fields that an engine
transition writes. -/
theorem exec_windowWord {i : Instr} {s t : State} (h : exec i s = .next t) (p : Target) (hp : p.engineWritten = false)
    (hs : p ≠ .status) : t.windowWord p = s.windowWord p := by
  rw [exec_frame h]
  cases p
  case status => exact absurd rfl hs
  case nonce | attempts | cells | acc | digest => cases hp
  all_goals rfl

/-- Settles O41: the frame of `exec_cases`, read field by field and word by word. -/
theorem engineWritesOnlyItsRegisters : Obligations.EngineWritesOnlyItsRegisters := by
  intro i s t h
  refine ⟨?_, exec_windowWord h, fun hi => ?_⟩
  · rw [exec_frame h]
    exact ⟨rfl, rfl, rfl, rfl, rfl, rfl, rfl, rfl, rfl, rfl, rfl, rfl, rfl⟩
  · obtain hc | ⟨rfl, -⟩ := exec_cases h
    · rw [hc.frame]
      exact ⟨rfl, rfl⟩
    · exact absurd rfl hi

/-! ## DIGEST (10_state.md R50) -/

/-- The difficulty predicate in bits and in hex digits: digit `k` is 0 when bits 4k to 4k+3 are
(41_hash_mining.md R161). -/
theorem meets_eq_true_iff_refMeets (D : Digest) (d : Nat) : meets D d = true ↔ refMeets D d := by
  rw [meets_eq_true_iff]
  refine and_congr_right fun _ => ⟨fun h k hk => ?_, fun h k hk => ?_⟩
  · exact (hexDigit_eq_zero_iff D k).2 ⟨h _ (by omega), h _ (by omega), h _ (by omega), h _ (by omega)⟩
  · obtain ⟨h0, h1, h2, h3⟩ := (hexDigit_eq_zero_iff D (k / 4)).1 (h (k / 4) (by omega))
    obtain hr | hr | hr | hr :
        k = 4 * (k / 4) ∨ k = 4 * (k / 4) + 1 ∨ k = 4 * (k / 4) + 2 ∨ k = 4 * (k / 4) + 3 := by omega
    all_goals rw [hr]; assumption

/-- Settles O42: among the completions only HASH writes DIGEST, and an attempt of a MINE writes it only when it meets
the target. -/
theorem digestIsWrittenOnlyBySuccess : Obligations.DigestIsWrittenOnlyBySuccess := by
  intro i s t h hne
  obtain hc | ⟨rfl, -, -, -, rfl⟩ := exec_cases h
  · obtain hkept | ⟨hi, hok, hacc⟩ := hc.digest_cases
    · exact absurd hkept hne
    · exact ⟨hacc, hok, .inl hi⟩
  · obtain ⟨hm, he⟩ | ⟨-, he⟩ := s.mineAttempt_cases
    · rw [he]
      exact ⟨rfl, rfl, .inr ⟨rfl, (meets_eq_true_iff_refMeets _ _).1 hm⟩⟩
    · rw [he] at hne
      exact absurd rfl hne

end Sys2Proof.Machine
end

section
/-!
SUPPORT. STATUS bit by bit (20_memory.md R80; 10_state.md R33, R38).
-/

namespace Sys2Proof.Machine

@[simp] theorem flagWord_getLsbD (b : Bool) (i : Nat) : (flagWord b).getLsbD i = (decide (i = 0) && b) := by
  by_cases hi : i = 0
  · simp [flagWord, hi]
  · simp [flagWord, BitVec.getLsbD_ofBool, hi]

/-- Each bit of STATUS: the four flags in bits 0 to 3, the outcome code from bit 8 on. -/
theorem State.statusWord_getLsbD (s : State) (i : Nat) (hi : i < 32) :
    s.statusWord.getLsbD i =
      (decide (8 ≤ i) && s.result.code.getLsbD (i - 8) || decide (i = 3) && s.werr || decide (i = 2) && s.cerr ||
        decide (i = 1) && s.done || decide (i = 0) && s.busy) := by
  have hflag : ∀ k, (!decide (i < k) && decide (i - k = 0)) = decide (i = k) := by
    intro k
    rw [← decide_not, ← Bool.decide_and]
    exact decide_eq_decide.2 (by omega)
  have hcode : (!decide (i < 8)) = decide (8 ≤ i) := by
    rw [← decide_not]
    exact decide_eq_decide.2 not_lt
  simp only [State.statusWord, BitVec.getLsbD_or, BitVec.getLsbD_shiftLeft, BitVec.getLsbD_setWidth, flagWord_getLsbD,
    hi, show i - 8 < 32 by omega, decide_true, Bool.true_and, ← Bool.and_assoc, hflag, hcode]

theorem State.statusWord_busy (s : State) : s.statusWord.getLsbD 0 = s.op.isSome := by
  rw [s.statusWord_getLsbD 0 (by decide)]
  simp [State.busy]

theorem State.statusWord_done (s : State) : s.statusWord.getLsbD 1 = s.done := by
  rw [s.statusWord_getLsbD 1 (by decide)]
  simp

theorem State.statusWord_cerr (s : State) : s.statusWord.getLsbD 2 = s.cerr := by
  rw [s.statusWord_getLsbD 2 (by decide)]
  simp

theorem State.statusWord_werr (s : State) : s.statusWord.getLsbD 3 = s.werr := by
  rw [s.statusWord_getLsbD 3 (by decide)]
  simp

/-- The reserved bits 7:4 are 0. -/
theorem State.statusWord_low_reserved (s : State) : s.statusWord.extractLsb' 4 4 = 0#4 := by
  ext i hi
  rw [BitVec.getElem_extractLsb', s.statusWord_getLsbD _ (by omega)]
  simp [show ¬ 8 ≤ 4 + i by omega, show 4 + i ≠ 3 by omega, show 4 + i ≠ 2 by omega, show 4 + i ≠ 1 by omega]

/-- The reserved bits 31:12 are 0. -/
theorem State.statusWord_high_reserved (s : State) : s.statusWord.extractLsb' 12 20 = 0#20 := by
  ext i hi
  rw [BitVec.getElem_extractLsb', s.statusWord_getLsbD _ (by omega)]
  simp [show 12 + i ≠ 3 by omega, show 12 + i ≠ 2 by omega, show 12 + i ≠ 1 by omega,
    BitVec.getLsbD_of_ge s.result.code (12 + i - 8) (by omega)]

/-- Bits 11:8 hold the outcome code. -/
theorem State.statusWord_code (s : State) : s.statusWord.extractLsb' 8 4 = s.result.code := by
  ext i hi
  rw [BitVec.getElem_extractLsb', s.statusWord_getLsbD _ (by omega)]
  simp [BitVec.getLsbD_eq_getElem hi, show 8 + i ≠ 3 by omega, show 8 + i ≠ 2 by omega, show 8 + i ≠ 1 by omega]

/-- A read of STATUS is exact, busy or not (20_memory.md R80). -/
theorem State.read_status (s : State) : (s.transact (.read 0x008#12)).rdata = some s.statusWord := by
  rw [State.transact_read, targetAt_status, s.readTarget_exact .status (.inl rfl)]
  rfl

/-- Settles O53: STATUS reads as `statusWord`, whose fields the lemmas above give. -/
theorem statusWordFields : Obligations.StatusWordFields := by
  intro s
  have hcode : ∀ c, s.result = c → s.statusWord.extractLsb' 8 4 = c.code := fun c h => h ▸ s.statusWord_code
  exact ⟨s.statusWord, s.read_status, s.statusWord_busy, s.statusWord_done, s.statusWord_cerr, s.statusWord_werr,
    s.statusWord_low_reserved, s.statusWord_high_reserved,
    hcode _, hcode _, hcode _, hcode _, hcode _, hcode _, hcode _, hcode _⟩

end Sys2Proof.Machine
end

section
/-!
SUPPORT. Every transition keeps the invariant `State.Inv`: one lemma per operation, then the step.
-/

namespace Sys2Proof.Machine

/-! ## States that have the invariant -/

/-- Fields that the invariant does not speak of may take any value, and DONE may fall. -/
theorem State.Inv.of_frame {s : State} (hs : s.Inv) (r : State) (d : Bool) (hd : d = true → s.done = true) :
    State.Inv { r with
      done := d, result := s.result, diff := s.diff, nonce := s.nonce, maxatt := s.maxatt, attempts := s.attempts
      pos := s.pos, op := s.op, abortReq := s.abortReq } where
  op_wf := hs.op_wf
  pos_zero := hs.pos_zero
  abort_mine := hs.abort_mine
  busy_open hb := by
    obtain ⟨hdone, hres⟩ := hs.busy_open hb
    exact ⟨Bool.eq_false_iff.2 fun h => Bool.eq_false_iff.1 hdone (hd h), hres⟩
  done_result h := hs.done_result (hd h)
  attempts_le_nonce := hs.attempts_le_nonce
  attempts_le_cap := hs.attempts_le_cap
  bad_diff_idle := hs.bad_diff_idle

/-- While idle the invariant speaks of POS, ABORTREQ and the outcome only. -/
theorem State.Inv.of_idle {t : State} (hop : t.op = none) (hpos : t.pos = 0) (habort : t.abortReq = false)
    (hdone : t.done = true → t.result ≠ .none) : t.Inv where
  op_wf := by simp [hop]
  pos_zero := hpos
  abort_mine := by simp [habort]
  busy_open := by simp [State.busy, hop]
  done_result := hdone
  attempts_le_nonce := by simp [hop]
  attempts_le_cap := by simp [hop]
  bad_diff_idle := by simp [hop]

theorem State.Inv.abortReq_of_idle {s : State} (hs : s.Inv) (h : s.op = none) : s.abortReq = false :=
  Bool.eq_false_iff.2 fun ha => by simpa [h] using hs.abort_mine ha

/-! ## Command writes -/

theorem decodeOp_wf (op : BitVec 4) : (decodeOp op).wf = true := by
  unfold decodeOp
  split <;> rfl

/-- A latched command is one that a CMD word decodes to (10_state.md R53). -/
theorem decode_wf (v : Word) : (decode v).wf = true := by
  unfold decode
  split_ifs with h
  · exact decodeOp_wf _
  · simpa [Instr.wf] using h

/-- Acceptance opens a command: no outcome yet, and a MINE starts with ATTEMPTS = 0. -/
theorem State.Inv.accept {s : State} (hs : s.Inv) (i : Instr) (hi : i.wf = true) : (s.accept i).Inv where
  op_wf j hj := Option.some.inj hj ▸ hi
  pos_zero := hs.pos_zero
  abort_mine := by simp
  busy_open _ := ⟨rfl, rfl⟩
  done_result := by simp
  attempts_le_nonce h := by simp [Option.some.inj h]
  attempts_le_cap h := by simp [Option.some.inj h]
  bad_diff_idle h := by simp [Option.some.inj h]

theorem State.Inv.requestAbort {s : State} (hs : s.Inv) (hop : s.op = some .mine) : s.requestAbort.Inv :=
  { hs with abort_mine := fun _ => hop }

theorem State.Inv.cmdWrite {s : State} (hs : s.Inv) (v : Word) : (s.cmdWrite v).Inv := by
  obtain ⟨-, he⟩ | ⟨hop, -, he⟩ | ⟨-, -, -, he⟩ := s.cmdWrite_cases v <;> rw [he]
  · exact hs.accept _ (decode_wf v)
  · exact hs.requestAbort hop
  · exact hs.of_frame s.dropCommand s.done id

/-! ## Host transactions -/

theorem State.Inv.clearStatus {s : State} (hs : s.Inv) (v : Word) : (s.clearStatus v).Inv :=
  hs.of_frame (s.clearStatus v) _ fun h => (Bool.and_eq_true_iff.1 h).1

theorem State.Inv.writeTarget {s : State} (hs : s.Inv) (p : Target) (v : Word) : (s.writeTarget p v).Inv := by
  cases hb : s.busy
  · obtain he | he | ⟨r, he⟩ := s.writeTarget_cases_idle p v hb <;> rw [he]
    · exact hs.clearStatus v
    · exact hs.accept _ (decode_wf v)
    · have hop := s.busy_eq_false_iff.1 hb
      exact .of_idle hop hs.pos_zero (hs.abortReq_of_idle hop) hs.done_result
  · obtain he | he | he | he | he := s.writeTarget_cases_busy p v hb <;> rw [he]
    · exact hs
    · exact hs.of_frame { s with ie := v.getLsbD 0 } s.done id
    · exact hs.clearStatus v
    · exact hs.cmdWrite v
    · exact hs.of_frame s.dropWrite s.done id

/-- A read writes the port and at most the draw counter (20_memory.md R81, R82). -/
theorem State.readTarget_frame (s : State) (p : Target) :
    ∃ w n, s.readTarget p = { s with rdata := some w, draws := n } := by
  unfold State.readTarget
  split_ifs
  · exact ⟨_, _, rfl⟩
  · exact ⟨_, _, rfl⟩

theorem State.Inv.readTarget {s : State} (hs : s.Inv) (p : Target) : (s.readTarget p).Inv := by
  obtain ⟨w, n, he⟩ := s.readTarget_frame p
  rw [he]
  exact hs.of_frame { s with rdata := some w, draws := n } s.done id

theorem State.Inv.transact {s : State} (hs : s.Inv) (op : HostOp) : (s.transact op).Inv := by
  cases op with
  | read addr => exact hs.readTarget _
  | write addr v => exact hs.writeTarget _ v

/-! ## Engine transitions -/

/-- A completed command leaves the block idle with an outcome. -/
theorem Completed.inv {i : Instr} {s t : State} (hc : Completed i s t) (hs : s.Inv) : t.Inv := by
  have hpos := hc.pos_zero hs.pos_zero
  have hres := hc.result_ne_none
  rw [hc.frame]
  exact .of_idle rfl hpos rfl fun _ => hres

/-- An attempt counts NONCE and ATTEMPTS up together: neither wraps while NONCE is not the largest word, and ATTEMPTS
stays within a cap that it had not reached (10_state.md R44, R46). -/
theorem State.Inv.mineHash {s : State} (hs : s.Inv) (hop : s.op = some .mine) (hdiff : s.diff.toNat ≤ 64)
    (hcap : s.maxatt = 0 ∨ s.attempts ≠ s.maxatt) (hnonce : s.nonce ≠ 0xFFFFFFFF#32) : s.mineHash.Inv := by
  have hle := hs.attempts_le_nonce hop
  have hn : (s.nonce + 1).toNat = s.nonce.toNat + 1 := nonce_succ_toNat _ hnonce
  have ha : (s.attempts + 1).toNat = s.attempts.toNat + 1 := by bv_omega
  exact {
    op_wf := hs.op_wf
    pos_zero := State.hashOf_pos _ _
    abort_mine := hs.abort_mine
    busy_open := hs.busy_open
    done_result := hs.done_result
    attempts_le_nonce := fun _ => by
      change (s.attempts + 1).toNat ≤ (s.nonce + 1).toNat
      omega
    attempts_le_cap := fun _ (hm : s.maxatt ≠ 0) => by
      change (s.attempts + 1).toNat ≤ s.maxatt.toNat
      have hcapLe := hs.attempts_le_cap hop hm
      have hne : s.attempts.toNat ≠ s.maxatt.toNat := fun h => hcap.resolve_left hm (BitVec.eq_of_toNat_eq h)
      omega
    bad_diff_idle := fun _ (hd : 64 < s.diff.toNat) => absurd hdiff (not_le.2 hd) }

theorem State.Inv.mineAttempt {s : State} (hs : s.mineHash.Inv) : s.mineAttempt.Inv := by
  obtain ⟨-, he⟩ | ⟨-, he⟩ := s.mineAttempt_cases
  · rw [he]
    exact .of_idle rfl hs.pos_zero rfl fun _ => by simp
  · rwa [he]

theorem State.Inv.exec {i : Instr} {s t : State} (hs : s.Inv) (hop : s.op = some i) (h : exec i s = .next t) :
    t.Inv := by
  obtain hc | ⟨rfl, hdiff, hcap, hnonce, rfl⟩ := exec_cases h
  · exact hc.inv hs
  · exact (hs.mineHash hop hdiff hcap hnonce).mineAttempt

/-! ## Steps -/

theorem State.resetEvent_inv (s : State) : s.resetEvent.Inv := .of_idle rfl rfl rfl nofun

theorem State.Inv.advance {s : State} (hs : s.Inv) : s.advance.Inv := hs.of_frame s.advance s.done id

/-- Settles O60: each kind of transition that `step_cases` names keeps the invariant. -/
theorem stepKeepsTheInvariant : Obligations.StepKeepsTheInvariant := by
  intro s t hs h
  obtain ⟨-, rfl⟩ | ⟨op, -, rfl⟩ | ⟨i, -, hop, he⟩ | ⟨-, -, rfl⟩ := step_cases h
  · exact s.advance.resetEvent_inv
  · exact hs.advance.transact op
  · exact hs.advance.exec hop he
  · exact hs.advance

end Sys2Proof.Machine
end

section
/-!
SUPPORT. The register map: every place and its offset, and which places the ranges of offsets reach (20_memory.md R76,
R77, R79).
-/

namespace Sys2Proof.Machine

/-! ## The offsets of the places -/

theorem ofNat_toNat_mod_four (n : Nat) : (BitVec.ofNat 12 n).toNat % 4 = n % 4 := by
  rw [BitVec.toNat_ofNat]
  exact Nat.mod_mod_of_dvd n (by decide)

theorem targetAt_eq_of_offset {p : Target} {a : BitVec 12} (h : p.offset = some a) : targetAt a = p := by
  cases p <;> cases h
  case msg j => exact (targetAt_msg j j.isLt).trans (congrArg _ (Fin.ofNat_val_eq_self j))
  case cells j => exact (targetAt_cells j j.isLt).trans (congrArg _ (Fin.ofNat_val_eq_self j))
  case acc j => exact (targetAt_acc j j.isLt).trans (congrArg _ (Fin.ofNat_val_eq_self j))
  case digest j => exact (targetAt_digest j j.isLt).trans (congrArg _ (Fin.ofNat_val_eq_self j))
  case exp j => exact (targetAt_exp j j.isLt).trans (congrArg _ (Fin.ofNat_val_eq_self j))
  all_goals decide

theorem offset_mod_four {p : Target} {a : BitVec 12} (h : p.offset = some a) : a.toNat % 4 = 0 := by
  cases p <;> cases h
  case msg | cells | acc | digest | exp =>
    rw [ofNat_toNat_mod_four]
    omega
  all_goals decide

/-- Settles O45: the two lemmas above, place by place. -/
theorem registerMapRoundTrip : Obligations.RegisterMapRoundTrip :=
  fun _ _ h => ⟨targetAt_eq_of_offset h, offset_mod_four h⟩

/-! ## The low bits of an offset (20_memory.md R79) -/

theorem targetAt_mask (addr : BitVec 12) : targetAt (addr &&& 0xFFC#12) = targetAt addr := by
  rw [targetAt, targetAt, BitVec.and_assoc, BitVec.and_self]

/-! ## The ranges of the map -/

/-- The places whose write is dropped with WERR while busy (20_memory.md R88). -/
def Target.isOperand : Target → Bool
  | .rule | .steps | .diff | .mlen | .nonce | .maxatt | .msg _ | .cells _ | .exp _ => true
  | _ => false

/-- The places that ignore every write (20_memory.md R77, R89). -/
def Target.ignoresWrites : Target → Bool
  | .id | .attempts | .acc _ | .digest _ | .reserved => true
  | _ => false

theorem targetOfWord_isOperand (n : Nat) :
    (targetOfWord n).isOperand = true ↔ 4 ≤ n ∧ n ≤ 9 ∨ 16 ≤ n ∧ n < 48 ∨ 64 ≤ n ∧ n < 72 := by
  by_cases h : n < 72
  · revert n; decide
  · simp [targetOfWord_reserved n (not_lt.1 h), Target.isOperand]; omega

theorem targetOfWord_ignoresWrites (n : Nat) :
    (targetOfWord n).ignoresWrites = true ↔ n = 0 ∨ 10 ≤ n ∧ n < 16 ∨ 48 ≤ n ∧ n < 64 ∨ 72 ≤ n := by
  by_cases h : n < 72
  · revert n; decide
  · simp [targetOfWord_reserved n (not_lt.1 h), Target.ignoresWrites]; omega

theorem targetOfWord_eq_reserved_iff (n : Nat) : targetOfWord n = .reserved ↔ 11 ≤ n ∧ n < 16 ∨ 72 ≤ n := by
  by_cases h : n < 72
  · revert n; decide
  · simp [targetOfWord_reserved n (not_lt.1 h)]; omega

theorem targetOfWord_engineWritten (n : Nat) :
    (targetOfWord n).engineWritten = true ↔ n = 8 ∨ n = 10 ∨ 32 ≤ n ∧ n < 64 := by
  by_cases h : n < 72
  · revert n; decide
  · simp [targetOfWord_reserved n (not_lt.1 h), Target.engineWritten]; omega

end Sys2Proof.Machine
end

section
/-!
SUPPORT. What a host write does to the window: the word it reaches, the elements of an array word, and the rest
(20_memory.md R84-R89).
-/

namespace Sys2Proof.Machine

/-! ## Words after a write -/

/-- S has 16 words. -/
theorem cells_word_fits (j : Fin 16) : 32 * (j.val + 1) ≤ Config.W := by
  have := j.isLt
  change 32 * (j.val + 1) ≤ 512
  omega

theorem seqWord_setSeqWord {n : Nat} (q : BitVec n) (j k : Nat) (v : Word) (hj : 32 * (j + 1) ≤ n)
    (hk : 32 * (k + 1) ≤ n) : seqWord (setSeqWord q j v) k = if k = j then v else seqWord q k := by
  apply word_ext
  intro t ht
  rw [seqWord_getLsbD _ k t hk ht, setSeqWord_getMsbD q j v _ hj (by omega), show (32 * k + t) / 32 = k by omega,
    show (32 * k + t) % 32 = t by omega]
  split_ifs
  · rfl
  · rw [seqWord_getLsbD q k t hk ht]

/-- The four byte lanes of a word, put together again. -/
theorem word_of_lanes (v : Word) :
    v.extractLsb' 24 8 ++ v.extractLsb' 16 8 ++ v.extractLsb' 8 8 ++ v.extractLsb' 0 8 = v := by
  rw [BitVec.extractLsb'_append_extractLsb'_eq_extractLsb' (by rfl),
    BitVec.extractLsb'_append_extractLsb'_eq_extractLsb' (by rfl),
    BitVec.extractLsb'_append_extractLsb'_eq_extractLsb' (by rfl)]
  exact BitVec.extractLsb'_eq_self

theorem msgWord_setMsgWord (m : Vector Byte 64) (j k : Fin 16) (v : Word) :
    msgWord (setMsgWord m j v) k = if k = j then v else msgWord m k := by
  simp only [msgWord, setMsgWord_getElem, Fin.ext_iff, show 4 * k.val / 4 = k.val by omega,
    show (4 * k.val + 1) / 4 = k.val by omega, show (4 * k.val + 2) / 4 = k.val by omega,
    show (4 * k.val + 3) / 4 = k.val by omega, show 4 * k.val % 4 = 0 by omega,
    show (4 * k.val + 1) % 4 = 1 by omega, show (4 * k.val + 2) % 4 = 2 by omega,
    show (4 * k.val + 3) % 4 = 3 by omega]
  split_ifs
  · exact word_of_lanes v
  · rfl

theorem flagWord_getLsbD_zero (v : Word) : flagWord (v.getLsbD 0) = v &&& 1#32 := by
  apply BitVec.eq_of_getLsbD_eq
  intro i hi
  rw [flagWord_getLsbD, BitVec.getLsbD_and]
  by_cases h : i = 0 <;> simp [h]

/-! ## Writes while idle (20_memory.md R84, R85) -/

/-- The place written reads the kept bits. -/
theorem State.windowWord_writeTarget_self {s : State} {p : Target} {kept : Word} (v : Word) (h : s.busy = false)
    (hp : p.keptBits = some kept) : (s.writeTarget p v).windowWord p = v &&& kept := by
  cases p <;> cases hp <;> simp only [State.writeTarget, s.operandWrite_idle _ h, State.windowWord]
  case ctrl => exact flagWord_getLsbD_zero v
  case rule | diff => exact setWidth_setWidth_eq_and v 8 (by decide)
  case mlen => exact setWidth_setWidth_eq_and v 16 (by decide)
  case steps | nonce | maxatt => exact BitVec.and_allOnes.symm
  case msg j => rw [msgWord_setMsgWord, if_pos rfl]; exact BitVec.and_allOnes.symm
  case cells j =>
    rw [seqWord_setSeqWord _ _ _ _ (cells_word_fits j) (cells_word_fits j), if_pos rfl]
    exact BitVec.and_allOnes.symm
  case exp j =>
    rw [seqWord_setSeqWord _ _ _ _ (by omega) (by omega), if_pos rfl]
    exact BitVec.and_allOnes.symm

/-- Every other place reads as before. -/
theorem State.windowWord_writeTarget_of_ne {s : State} {p q : Target} {kept : Word} (v : Word) (h : s.busy = false)
    (hp : p.keptBits = some kept) (hq : q ≠ p) : (s.writeTarget p v).windowWord q = s.windowWord q := by
  cases p <;> cases hp <;> simp only [State.writeTarget, s.operandWrite_idle _ h]
  case msg j =>
    cases q with
    | msg k => exact (msgWord_setMsgWord _ _ _ _).trans (if_neg fun he => hq (congrArg _ he))
    | _ => rfl
  case cells j =>
    cases q with
    | cells k =>
      exact (seqWord_setSeqWord _ _ _ _ (cells_word_fits j) (cells_word_fits k)).trans
        (if_neg fun he => hq (congrArg _ (Fin.ext he)))
    | _ => rfl
  case exp j =>
    cases q with
    | exp k =>
      exact (seqWord_setSeqWord _ _ _ _ (by omega) (by omega)).trans (if_neg fun he => hq (congrArg _ (Fin.ext he)))
    | _ => rfl
  -- A register's write touches one field, which no other word of the window shows.
  all_goals cases q <;> trivial

/-- Settles O47: the word written, and every other word. -/
theorem writeThenReadKeepsTheField : Obligations.WriteThenReadKeepsTheField :=
  fun _ _ v _ h hp => ⟨State.windowWord_writeTarget_self v h hp, fun _ => State.windowWord_writeTarget_of_ne v h hp⟩

/-- Settles O48: an idle write of an array word replaces that word of the sequence. -/
theorem arrayWritesAreMsbFirst : Obligations.ArrayWritesAreMsbFirst := by
  intro s v h
  simp only [State.writeTarget, s.operandWrite_idle _ h]
  exact ⟨fun j i => setSeqWord_getMsbD s.cells j v i (cells_word_fits j),
    fun j i => setSeqWord_getMsbD s.exp j v i (by omega), fun j => setMsgWord_getElem s.msg j v⟩

/-! ## Writes at any time (20_memory.md R86-R89) -/

theorem State.writeTarget_operand_busy {s : State} {p : Target} (v : Word) (hp : p.isOperand = true)
    (h : s.busy = true) : s.writeTarget p v = s.dropWrite := by
  cases p <;> cases hp <;> exact s.operandWrite_busy _ h

theorem State.writeTarget_ignored (s : State) {p : Target} (v : Word) (hp : p.ignoresWrites = true) :
    s.writeTarget p v = s := by
  cases p <;> cases hp <;> rfl

/-- Settles O49: the offsets of the statement are those of the operand places. -/
theorem droppedWritesSetWerr : Obligations.DroppedWritesSetWerr := by
  rintro s addr v a rfl h ha
  exact State.writeTarget_operand_busy v ((targetOfWord_isOperand _).2 (by omega)) h

/-- Settles O55: `clearStatus`, with the masking of each flag read as a choice. -/
theorem statusWriteClearsWhatItNames : Obligations.StatusWriteClearsWhatItNames := by
  intro s v
  have hflag : ∀ b c : Bool, (b && !c) = if c then false else b := by decide
  rw [State.transact_write, targetAt_status, ← hflag, ← hflag, ← hflag]
  rfl

/-- Settles O56: the write sets IE, from which `irq` is computed. -/
theorem ctrlWriteSetsIe : Obligations.CtrlWriteSetsIe := by
  intro s v
  rw [State.transact_write, targetAt_ctrl]
  exact ⟨rfl, rfl⟩

end Sys2Proof.Machine
end

section
/-!
SUPPORT. What a host read returns, and that it changes no register (20_memory.md R77, R80-R83).
-/

namespace Sys2Proof.Machine

/-- A read of a place by its offset is exact where the engine does not write, and everywhere while idle. -/
theorem State.read_of_offset (s : State) {p : Target} {a : BitVec 12} (ha : p.offset = some a)
    (h : p.engineWritten = false ∨ s.busy = false) : (s.transact (.read a)).rdata = some (s.windowWord p) := by
  rw [State.transact_read, targetAt_eq_of_offset ha, s.readTarget_exact p h]

/-- An exact read shows the same word again. -/
theorem State.readTarget_twice (s : State) (p : Target) (h : p.engineWritten = false ∨ s.busy = false) :
    (s.readTarget p).readTarget p = s.readTarget p := by
  rw [s.readTarget_exact p h]
  refine (State.readTarget_exact _ p h).trans ?_
  cases p <;> rfl

/-- Settles O50: the offsets of the statement are those of the places that ignore writes, and of the reserved ones. -/
theorem ignoredWrites : Obligations.IgnoredWrites := by
  rintro s addr v a rfl
  refine ⟨fun ha => s.writeTarget_ignored v ((targetOfWord_ignoresWrites _).2 (by omega)), fun ha => ?_⟩
  have hp : targetAt addr = .reserved := (targetOfWord_eq_reserved_iff _).2 (by omega)
  rw [State.transact_read, hp]
  exact s.readTarget_exact .reserved (.inl rfl)

/-- Settles O51: the offsets of the statement are those of the engine-written places. -/
theorem busyReadsAreFree : Obligations.BusyReadsAreFree := by
  rintro s addr a rfl h ha
  exact s.readTarget_free _ ((targetOfWord_engineWritten _).2 (by omega)) h

/-- Settles O52: each offset names its place, whose word the read returns. -/
theorem exactReads : Obligations.ExactReads := by
  intro s
  have hie : flagWord s.ie = if s.ie then 1 else 0 := by cases s.ie <;> rfl
  refine ⟨s.read_of_offset (p := .id) rfl (.inl rfl), hie ▸ s.read_of_offset (p := .ctrl) rfl (.inl rfl),
    s.read_of_offset (p := .cmd) rfl (.inl rfl), s.read_of_offset (p := .rule) rfl (.inl rfl),
    s.read_of_offset (p := .steps) rfl (.inl rfl), s.read_of_offset (p := .diff) rfl (.inl rfl),
    s.read_of_offset (p := .mlen) rfl (.inl rfl), s.read_of_offset (p := .maxatt) rfl (.inl rfl),
    fun j hj => s.read_of_offset (p := .msg ⟨j, hj⟩) rfl (.inl rfl),
    fun j hj => ⟨_, s.read_of_offset (p := .exp ⟨j, hj⟩) rfl (.inl rfl),
      fun t => seqWord_getLsbD s.exp j t (by omega)⟩,
    fun h => ⟨s.read_of_offset (p := .nonce) rfl (.inr h), s.read_of_offset (p := .attempts) rfl (.inr h),
      fun j hj => ⟨_, s.read_of_offset (p := .cells ⟨j, hj⟩) rfl (.inr h),
        fun t => seqWord_getLsbD s.cells j t (cells_word_fits ⟨j, hj⟩)⟩,
      fun j hj => ⟨_, s.read_of_offset (p := .acc ⟨j, hj⟩) rfl (.inr h),
        fun t => seqWord_getLsbD s.acc j t (by omega)⟩,
      fun j hj => ⟨_, s.read_of_offset (p := .digest ⟨j, hj⟩) rfl (.inr h),
        fun t => seqWord_getLsbD s.digest j t (by omega)⟩⟩⟩

/-- Settles O54: a read writes the port and the draw counter only, and an exact read looks at neither. -/
theorem readsChangeNoRegister : Obligations.ReadsChangeNoRegister := by
  intro s addr
  obtain ⟨w, n, hframe⟩ := s.readTarget_frame (targetAt addr)
  refine ⟨?_, ?_, fun h => ?_⟩
  · rw [State.transact_read, hframe]
    rfl
  · rw [State.transact_read, hframe]
  · rw [State.transact_read, State.transact_read, s.readTarget_twice _ h]

end Sys2Proof.Machine
end

section
/-!
SUPPORT. What every step does, whatever is scheduled: it answers a next state, and it leaves the operands alone while a
command is busy (20_memory.md R71, R88, R93; 60_exceptions.md R207, R217).
-/

namespace Sys2Proof.Machine

/-! ## Every step answers (60_exceptions.md R207) -/

theorem exec_answers_next (i : Instr) (s : State) : ∃ t, exec i s = .next t := by
  cases i <;> exact ⟨_, rfl⟩

theorem engineTurn_answers_next (s : State) : ∃ t, engineTurn s = .next t := by
  rw [engineTurn]
  cases s.op with
  | none => exact ⟨_, rfl⟩
  | some i => exact exec_answers_next i s

theorem step_answers_next (s : State) : ∃ t, step s = .next t := by
  rw [step, transition]
  cases s.nextEvent with
  | engine => exact engineTurn_answers_next _
  | _ => exact ⟨_, rfl⟩

theorem step_engine_idle (s : State) (he : s.nextEvent = .engine) (h : s.op = none) : step s = .next s.advance := by
  rw [step, transition, he, deliver, engineTurn, State.advance_op, h]

/-- Settles O39: no kind of transition stops, and an idle engine's turn is `advance` alone. -/
theorem everyStepAnswersNext : Obligations.EveryStepAnswersNext := ⟨step_answers_next, step_engine_idle⟩

/-- Settles O46: an access looks at its offset through the mask, and a scheduled access is delivered as it stands. -/
theorem lowAddressBitsAreIgnored : Obligations.LowAddressBitsAreIgnored := by
  refine ⟨fun s addr v => ?_, fun s op rest h => ?_⟩
  · simp only [State.transact_read, State.transact_write, targetAt_mask, and_self]
  · rw [step_host s op rest h, State.advance, h, List.tail_cons]

/-! ## Operands while busy (20_memory.md R93) -/

/-- The operand registers that no engine transition writes. -/
def State.operands (s : State) : BitVec 8 × Word × BitVec 8 × BitVec 16 × Word × Vector Byte 64 × Digest :=
  (s.rule, s.steps, s.diff, s.mlen, s.maxatt, s.msg, s.exp)

@[simp] theorem State.advance_operands (s : State) : s.advance.operands = s.operands := rfl

theorem State.cmdWrite_operands (s : State) (v : Word) : (s.cmdWrite v).operands = s.operands := by
  obtain ⟨-, he⟩ | ⟨-, -, he⟩ | ⟨-, -, -, he⟩ := s.cmdWrite_cases v <;> rw [he] <;> rfl

theorem State.writeTarget_operands_busy (s : State) (p : Target) (v : Word) (h : s.busy = true) :
    (s.writeTarget p v).operands = s.operands := by
  obtain he | he | he | he | he := s.writeTarget_cases_busy p v h <;> rw [he]
  case inr.inr.inr.inl => exact s.cmdWrite_operands v
  all_goals rfl

theorem State.transact_operands_busy (s : State) (op : HostOp) (h : s.busy = true) :
    (s.transact op).operands = s.operands := by
  cases op with
  | read addr =>
    obtain ⟨w, n, he⟩ := s.readTarget_frame (targetAt addr)
    rw [State.transact_read, he]
    rfl
  | write addr v => exact s.writeTarget_operands_busy _ v h

theorem exec_operands {i : Instr} {s t : State} (h : exec i s = .next t) : t.operands = s.operands := by
  rw [exec_frame h]
  rfl

theorem step_operands_busy {s t : State} (hb : s.busy = true) (hr : s.nextEvent ≠ .reset) (h : step s = .next t) :
    t.operands = s.operands := by
  obtain ⟨he, -⟩ | ⟨op, -, rfl⟩ | ⟨i, -, -, he⟩ | ⟨-, -, rfl⟩ := step_cases h
  · exact absurd he hr
  · exact (s.advance.transact_operands_busy op hb).trans s.advance_operands
  · exact (exec_operands he).trans s.advance_operands
  · exact s.advance_operands

/-- Settles O43: the operands of `step_operands_busy`, register by register. -/
theorem operandsAreFixedWhileBusy : Obligations.OperandsAreFixedWhileBusy := by
  intro s t hb hr h
  simpa only [State.operands, Prod.mk.injEq] using step_operands_busy hb hr h

end Sys2Proof.Machine
end

section
/-!
SUPPORT. The digest text: a hex digit is four bits of a word, and the 64 digits are eight rows of eight
(20_memory.md R73; 00_scope.md R18).
-/

namespace Sys2Proof.Machine

theorem mod_sixteen_eq_bits (n : Nat) :
    n % 16 = 8 * (n.testBit 3).toNat + 4 * (n.testBit 2).toNat + 2 * (n.testBit 1).toNat + (n.testBit 0).toNat := by
  simp only [Nat.toNat_testBit]
  omega

theorem hexDigit_eq_seqWord_digit (d : Digest) (j t : Nat) (hj : j < 8) (ht : t < 8) :
    hexDigit d (8 * j + t) = (seqWord d j).toNat / 16 ^ (7 - t) % 16 := by
  have hbit : ∀ i, i < 4 →
      ((seqWord d j).toNat / 16 ^ (7 - t)).testBit (3 - i) = d.getMsbD (4 * (8 * j + t) + i) := by
    intro i hi
    rw [show 16 = 2 ^ 4 by rfl, ← Nat.pow_mul, Nat.testBit_div_two_pow, BitVec.testBit_toNat,
      show 3 - i + 4 * (7 - t) = 31 - (4 * t + i) by omega, seqWord_getLsbD d j _ (by omega) (by omega)]
    congr 1
    omega
  rw [mod_sixteen_eq_bits, hbit 0 (by omega), hbit 1 (by omega), hbit 2 (by omega), hbit 3 (by omega)]
  rfl

/-- A count of `m * k` as `m` rows of `k`. -/
theorem range_mul_map_eq_flatMap {α : Type} (f : Nat → α) (m k : Nat) :
    (List.range (m * k)).map f = (List.range m).flatMap fun j => (List.range k).map fun t => f (k * j + t) := by
  induction m with
  | zero => simp
  | succ m ih =>
    rw [Nat.succ_mul, List.range_add, List.map_append, ih, List.range_succ, List.flatMap_append]
    simp [Nat.mul_comm, Function.comp_def]

/-- Settles O22: the 64 digits in rows of eight, each row the digits of a word. -/
theorem digestTextOfWords : Obligations.DigestTextOfWords := by
  intro d
  rw [hex, String.toList_ofList, range_mul_map_eq_flatMap _ 8 8]
  refine List.flatMap_congr fun j hj => List.map_congr_left fun t ht => ?_
  rw [hexDigit_eq_seqWord_digit d j t (List.mem_range.1 hj) (List.mem_range.1 ht)]

end Sys2Proof.Machine
end

section
/-!
SUPPORT. Decoder and encoder are inverse to each other. A word whose bits 31:4 are 0 is its OP field widened to 32 bits,
and the opcode map loses nothing of OP; every other word is kept whole by the ILLEGAL row (30_encoding.md R103-R105).
-/

namespace Sys2Proof.Machine

/-! ## The two branches of the decoder -/

theorem decode_of_highBits_zero {v : Word} (h : v.extractLsb' 4 28 = 0#28) :
    decode v = decodeOp (v.extractLsb' 0 4) := if_pos h

theorem decode_of_highBits_ne_zero {v : Word} (h : v.extractLsb' 4 28 ≠ 0#28) : decode v = .illegal v := if_neg h

/-! ## The OP field -/

/-- The opcode map and its encoder agree on each of the 16 values of OP. -/
theorem encode_decodeOp : ∀ op : BitVec 4, encode (decodeOp op) = op.setWidth 32 := by decide

theorem setWidth_op_of_highBits_zero {v : Word} (h : v.extractLsb' 4 28 = 0#28) :
    (v.extractLsb' 0 4).setWidth 32 = v := by
  have hhigh : v.toNat / 2 ^ 4 % 2 ^ 28 = 0 := by
    simpa [BitVec.extractLsb'_toNat, Nat.shiftRight_eq_div_pow] using congrArg BitVec.toNat h
  apply BitVec.eq_of_toNat_eq
  simp only [BitVec.toNat_setWidth, BitVec.extractLsb'_toNat, Nat.shiftRight_zero]
  omega

/-! ## Both directions -/

theorem decode_encode (i : Instr) (h : i.wf = true) : decode (encode i) = i := by
  cases i with
  | illegal word => exact decode_of_highBits_ne_zero (by simpa [Instr.wf, encode] using h)
  | _ => rfl

theorem encode_decode (v : Word) : encode (decode v) = v := by
  by_cases h : v.extractLsb' 4 28 = 0#28
  · rw [decode_of_highBits_zero h, encode_decodeOp, setWidth_op_of_highBits_zero h]
  · rw [decode_of_highBits_ne_zero h, encode]

/-- Settles O1: the command's round trip by its row, the word's by its bits 31:4. -/
theorem decodeEncodeAgree : Obligations.DecodeEncodeAgree :=
  ⟨decode_encode, fun v => ⟨encode_decode v, decode_wf v⟩⟩

/-- Settles O2: each word written out is the encoding of a well-formed command. -/
theorem decodeOfWrittenWords : Obligations.DecodeOfWrittenWords :=
  ⟨decode_encode .nop rfl, decode_encode .evolve rfl, decode_encode .hash rfl,
    decode_encode .mine rfl, decode_encode .abort rfl, decode_encode .reservedB rfl,
    decode_encode (.illegal 0x1000000A#32) rfl⟩

end Sys2Proof.Machine
end

section
/-!
SUPPORT. The bit loops of the spec and the whole-sequence functions of the machine agree: `evolve`, `absorb`, `init` and
the loop over them (40_ca_engine.md R122-R124, R135; 00_scope.md R17).
-/

namespace Sys2Proof.Machine

/-! ## Evolution (40_ca_engine.md R123) -/

theorem evolve_eq_refEvolve {w : Nat} (S : Cells w) (rule : BitVec 8) : evolve S rule = refEvolve S rule := by
  refine BitVec.eq_of_getMsbD_eq fun i hi => ?_
  rw [evolve_getMsbD S rule i hi, refEvolve, seqOf_getMsbD, decide_eq_true hi, Bool.true_and]

/-! ## Absorption (40_ca_engine.md R124) -/

theorem xorRange_eq_false {f : Nat → Bool} {n : Nat} (h : ∀ i, i < n → f i = false) : xorRange f n = false := by
  induction n with
  | zero => rfl
  | succ n ih => rw [xorRange_succ, ih fun i hi => h i (by omega), h n (by omega), Bool.xor_false]

/-- Elements past `n` that are 0 may be taken in. -/
theorem xorRange_extend {f : Nat → Bool} {n m : Nat} (hnm : n ≤ m) (h : ∀ i, n ≤ i → f i = false) :
    xorRange f m = xorRange f n := by
  obtain ⟨d, rfl⟩ := Nat.exists_eq_add_of_le hnm
  rw [xorRange_add, xorRange_eq_false fun i _ => h (n + i) (by omega), Bool.xor_false]

/-- Of a range in which only position `r` counts, that element is left. -/
theorem xorRange_single (f : Nat → Bool) (r n : Nat) :
    xorRange (fun i => f i && i == r) n = (decide (r < n) && f r) := by
  induction n with
  | zero => simp
  | succ n ih =>
    rw [xorRange_succ, ih]
    obtain h | rfl | h := Nat.lt_trichotomy r n
    · simp [h, beq_false_of_ne h.ne', Nat.lt_succ_of_lt h]
    · simp
    · simp [h.ne, h.not_gt, show ¬ r < n + 1 by omega]

/-- The positions congruent to `r` modulo 256 are position `r` of each chunk of 256. -/
theorem xorRange_mod_eq_chunks (f : Nat → Bool) (r n : Nat) (hr : r < 256) :
    xorRange (fun j => f j && j % 256 == r) (256 * n) = xorRange (fun c => f (256 * c + r)) n := by
  induction n with
  | zero => rfl
  | succ n ih =>
    have hmod : ∀ i, i < 256 → (f (256 * n + i) && (256 * n + i) % 256 == r) = (f (256 * n + i) && i == r) := by
      intro i hi
      rw [Nat.mul_add_mod, Nat.mod_eq_of_lt hi]
    rw [Nat.mul_succ, xorRange_add, ih, xorRange_congr hmod, xorRange_single (fun i => f (256 * n + i)),
      decide_eq_true hr, Bool.true_and, xorRange_succ]

/-- Position `k` takes in the cells that lie `p` before it, modulo 256. -/
theorem position_beq_eq (p j k : Nat) (hp : p < 256) (hk : k < 256) :
    (k == (p + j) % 256) = (j % 256 == (k + 256 - p) % 256) := by
  rw [Bool.eq_iff_iff, beq_iff_eq, beq_iff_eq]
  omega

theorem absorb_eq_refAbsorb {w : Nat} (h : HashRegs w) : absorb h = refAbsorb h := by
  have hacc : (absorb h).acc = (refAbsorb h).acc := by
    refine BitVec.eq_of_getMsbD_eq fun k hk => ?_
    have hcells : ∀ j, w ≤ j →
        (h.cells.getMsbD j && j % 256 == (k + 256 - h.pos.toNat) % 256) = false := by
      intro j hj
      rw [BitVec.getMsbD_of_ge _ _ hj, Bool.false_and]
    rw [absorb_acc_getMsbD h k hk, refAbsorb_acc_getMsbD h k hk]
    simp only [position_beq_eq _ _ k h.pos.isLt hk]
    rw [← xorRange_extend (show w ≤ 256 * ((w + 255) / 256) by omega) hcells,
      xorRange_mod_eq_chunks _ _ _ (Nat.mod_lt _ (by decide))]
  have hpos : (absorb h).pos = (refAbsorb h).pos := by
    apply BitVec.eq_of_toNat_eq
    simp [absorb, refAbsorb, BitVec.toNat_add]
  exact congrArg₂ (HashRegs.mk h.cells) hacc hpos

/-- Settles O10: the chunks of 256 cells and the single cells reach each position alike. -/
theorem absorbIsTheBitLoop : Obligations.AbsorbIsTheBitLoop := fun _ => absorb_eq_refAbsorb

/-! ## The loop (40_ca_engine.md R125, R135) -/

theorem evolveAbsorb_eq_ref {w : Nat} (rule : BitVec 8) (h : HashRegs w) :
    evolveAbsorb rule h = refAbsorb { h with cells := refEvolve h.cells rule } := by
  rw [evolveAbsorb, absorb_eq_refAbsorb, evolve_eq_refEvolve]

theorem runSteps_eq_refRun {w : Nat} (rule : BitVec 8) (n : Nat) (h : HashRegs w) :
    runSteps rule n h = refRun rule n h := by
  induction n generalizing h with
  | zero => rfl
  | succ n ih => rw [runSteps_succ, refRun, ih, evolveAbsorb_eq_ref]

/-! ## Initial state (40_ca_engine.md R122) -/

/-- Element `c` of `bits(m)`: bit `7 - c % 8` of byte `c / 8` (00_scope.md R17). -/
theorem bits_getD (m : List Byte) (c : Nat) :
    (bits m).getD c false = (m.getD (c / 8) 0).getLsbD (7 - c % 8) := by
  induction m generalizing c with
  | nil => simp [bits]
  | cons b m ih =>
    have hcons : bits (b :: m) = (List.range 8).map (fun t => b.getLsbD (7 - t)) ++ bits m := List.flatMap_cons
    rw [hcons]
    by_cases hc : c < 8
    · rw [List.getD_append _ _ _ _ (by simpa using hc), Nat.div_eq_of_lt hc, Nat.mod_eq_of_lt hc]
      simp [hc]
    · obtain ⟨d, rfl⟩ := Nat.exists_eq_add_of_le (not_lt.1 hc)
      rw [List.getD_append_right _ _ _ _ (by simp), show (8 + d) / 8 = d / 8 + 1 by omega, List.getD_cons_succ,
        show (8 + d) % 8 = d % 8 by omega, ← ih d]
      simp

theorem initCells_eq_refInit (w : Nat) (m : List Byte) : initCells w m = refInit w m := by
  refine BitVec.eq_of_getMsbD_eq fun c hc => ?_
  rw [initCells_getMsbD w m c hc, refInit, seqOf_getMsbD, decide_eq_true hc, Bool.true_and, bits_getD]

end Sys2Proof.Machine
end

section
/-!
SUPPORT. The engine transitions of NOP, INIT, EVOLVE, CLRACC, ABSORB, RUN and HASH, and what the functions behind them
do in the spec's corner cases (40_ca_engine.md R130-R135; 41_hash_mining.md R166).
-/

namespace Sys2Proof.Machine

/-! ## NOP, ABORT while idle, CLRACC -/

/-- Settles O4: both transitions are `finish` alone. -/
theorem nopAndIdleAbortComplete : Obligations.NopAndIdleAbortComplete := by
  rintro i s (rfl | rfl) <;> rfl

/-- Settles O8: the transition clears ACC and POS and finishes. -/
theorem clraccClearsTheAccumulator : Obligations.ClraccClearsTheAccumulator := fun _ => rfl

/-! ## INIT (40_ca_engine.md R121, R122, R131) -/

theorem State.msgBytes_getD (s : State) (k : Nat) (hk : k < min s.mlen.toNat 64) :
    s.msgBytes.getD k 0 = s.msg[k]'(by omega) := by
  rw [List.getD_eq_getElem _ _ (s.msgBytes_length ▸ hk)]
  simp [State.msgBytes]

/-- Settles O5: the spec lemma of `initCells` at the effective message. -/
theorem initLoadsTheEffectiveMessage : Obligations.InitLoadsTheEffectiveMessage := by
  refine fun s => ⟨initCells Config.W s.msgBytes, rfl, fun i hi => ?_⟩
  rw [initCells_getMsbD _ _ i hi, s.msgBytes_length]
  split_ifs with hlt
  · rw [s.msgBytes_getD (i / 8) (by omega)]
  · rfl

/-! ## EVOLVE (40_ca_engine.md R123, R132) -/

/-- Settles O6: the spec lemma of `evolve`. -/
theorem evolveAppliesTheRuleRom : Obligations.EvolveAppliesTheRuleRom := fun s =>
  ⟨evolve s.cells s.rule, rfl, evolve_getMsbD s.cells s.rule⟩

/-- A rule whose ROM holds `f left center right` applies `f` to every neighbourhood. -/
theorem evolve_getMsbD_of_rom {w : Nat} (S : Cells w) {rule : BitVec 8} (f : Bool → Bool → Bool → Bool)
    (hf : ∀ l c r : Bool, rule.getLsbD (4 * l.toNat + 2 * c.toNat + r.toNat) = f l c r) (i : Nat) (hi : i < w) :
    (evolve S rule).getMsbD i =
      f (decide (0 < i) && S.getMsbD (i - 1)) (S.getMsbD i) (S.getMsbD (i + 1)) := by
  rw [evolve_getMsbD S rule i hi, neighbourhood_eq, hf]

theorem evolve_rule204 {w : Nat} (S : Cells w) : evolve S 204 = S :=
  BitVec.eq_of_getMsbD_eq (evolve_getMsbD_of_rom S (fun _ c _ => c) (by decide))

theorem evolve_rule240_getMsbD {w : Nat} (S : Cells w) (i : Nat) (hi : i < w) :
    (evolve S 240).getMsbD i = (decide (0 < i) && S.getMsbD (i - 1)) :=
  evolve_getMsbD_of_rom S (fun l _ _ => l) (by decide) i hi

theorem evolve_rule170_getMsbD {w : Nat} (S : Cells w) (i : Nat) (hi : i < w) :
    (evolve S 170).getMsbD i = S.getMsbD (i + 1) :=
  evolve_getMsbD_of_rom S (fun _ _ r => r) (by decide) i hi

theorem evolve_rule0 {w : Nat} (S : Cells w) : evolve S 0 = 0 := by
  refine BitVec.eq_of_getMsbD_eq fun i hi => ?_
  rw [evolve_getMsbD_of_rom S (fun _ _ _ => false) (by decide) i hi]
  simp

theorem evolve_rule255 {w : Nat} (S : Cells w) : evolve S 255 = BitVec.allOnes w := by
  refine BitVec.eq_of_getMsbD_eq fun i hi => ?_
  rw [evolve_getMsbD_of_rom S (fun _ _ _ => true) (by decide) i hi]
  simp [hi]

/-- Settles O7: each rule's ROM is a projection or a constant. -/
theorem evolveOfTheShiftRules : Obligations.EvolveOfTheShiftRules := by
  refine fun s => ⟨_, rfl, ?_, ?_, ?_, ?_, ?_⟩ <;> intro hr <;> dsimp only [State.finish] <;> rw [hr]
  · exact evolve_rule204 s.cells
  · intro i hi
    rw [evolve_rule240_getMsbD s.cells i hi]
    cases i <;> simp
  · intro i hi
    rw [evolve_rule170_getMsbD s.cells i hi]
    split_ifs with hlast
    · exact BitVec.getMsbD_of_ge _ _ (hlast ▸ Nat.le_refl 512)
    · rfl
  · exact evolve_rule0 s.cells
  · exact evolve_rule255 s.cells

/-! ## ABSORB (40_ca_engine.md R124, R134) -/

/-- For `W = 512` from POS = 0 both halves of S fold into ACC. -/
theorem absorb_acc_getMsbD_width (h : HashRegs Config.W) (hpos : h.pos = 0) (k : Nat) (hk : k < 256) :
    (absorb h).acc.getMsbD k = (h.acc.getMsbD k ^^ (h.cells.getMsbD k ^^ h.cells.getMsbD (k + 256))) := by
  have hmod : (k + 256 - (0 : BitVec 8).toNat) % 256 = k := by
    rw [show (0 : BitVec 8).toNat = 0 from rfl]
    omega
  rw [absorb_acc_getMsbD h k hk, hpos, hmod, show (Config.W + 255) / 256 = 2 from rfl]
  simp [xorRange_succ, Nat.add_comm 256 k]

theorem evolveAbsorb_acc_getMsbD_width (rule : BitVec 8) (h : HashRegs Config.W) (hpos : h.pos = 0) (k : Nat)
    (hk : k < 256) : (evolveAbsorb rule h).acc.getMsbD k =
      (h.acc.getMsbD k ^^ ((evolve h.cells rule).getMsbD k ^^ (evolve h.cells rule).getMsbD (k + 256))) :=
  absorb_acc_getMsbD_width { h with cells := evolve h.cells rule } hpos k hk

/-- Absorbing changes ACC only. -/
theorem absorb_eq_width (h : HashRegs Config.W) : absorb h = { h with acc := (absorb h).acc } :=
  congrArg (HashRegs.mk h.cells (absorb h).acc) (absorb_pos_width h)

theorem absorb_acc_eq {w : Nat} (h : HashRegs w) :
    (absorb h).acc = h.acc ^^^ (foldCells h.cells).rotateRight h.pos.toNat := rfl

/-- What is absorbed does not look at ACC, so a second absorption takes it out again. -/
theorem absorb_absorb_width (h : HashRegs Config.W) : absorb (absorb h) = h := by
  rw [absorb_eq_width (absorb h), absorb_eq_width h]
  simp only [absorb_acc_eq, BitVec.xor_assoc, BitVec.xor_self, BitVec.xor_zero]

/-- The transition of ABSORB (40_ca_engine.md R134). -/
theorem exec_absorb (s : State) : exec .absorb s = .next ((s.setHashRegs (absorb s.hashRegs)).finish .ok) := rfl

/-- The transition of ABSORB writes ACC only. -/
theorem exec_absorb_eq (s : State) :
    exec .absorb s = .next (State.finish .ok { s with acc := (absorb s.hashRegs).acc }) := by
  rw [exec_absorb, absorb_eq_width s.hashRegs]
  rfl

/-- Settles O9: the frame of ABSORB and the fold from POS = 0. -/
theorem absorbFoldsBothHalves : Obligations.AbsorbFoldsBothHalves := fun s =>
  ⟨(absorb s.hashRegs).acc, exec_absorb_eq s, absorb_acc_getMsbD_width s.hashRegs⟩

/-- Settles O11: the second absorption takes out what the first took in. -/
theorem absorbTwiceRestoresAcc : Obligations.AbsorbTwiceRestoresAcc := by
  refine fun s => ⟨_, _, exec_absorb s, exec_absorb _, ?_⟩
  have htwice : absorb ((s.setHashRegs (absorb s.hashRegs)).finish .ok).hashRegs = s.hashRegs :=
    absorb_absorb_width s.hashRegs
  rw [htwice]
  rfl

/-! ## RUN (40_ca_engine.md R135) -/

/-- The transition of RUN. -/
theorem exec_run (s : State) :
    exec .run s = .next ((s.setHashRegs (runSteps s.rule s.steps.toNat s.hashRegs)).finish .ok) := rfl

/-- Settles O12: the loop of RUN is the reference loop. -/
theorem runIsTheReferenceLoop : Obligations.RunIsTheReferenceLoop := by
  intro s
  rw [exec_run, runSteps_eq_refRun]
  rfl

/-- Settles O13: the loop of `a + b` steps is the loop of `a` and then that of `b`. -/
theorem runOfStepsAdd : Obligations.RunOfStepsAdd := by
  refine fun s a b hab => ⟨_, _, exec_run _, exec_run _, ?_⟩
  have hsum : (a + b).toNat = a.toNat + b.toNat := by
    rw [BitVec.toNat_add, Nat.mod_eq_of_lt hab]
  rw [exec_run, hsum, runSteps_add]
  rfl

/-! ## HASH with no steps and with RULE 0 (40_ca_engine.md R125; 70_reset_and_hazards.md R246) -/

theorem absorb_of_cells_zero {w : Nat} (h : HashRegs w) (hc : h.cells = 0) : (absorb h).acc = h.acc := by
  refine BitVec.eq_of_getMsbD_eq fun k hk => ?_
  rw [absorb_acc_getMsbD h k hk, xorRange_eq_false fun c _ => by simp [hc], Bool.xor_false]

theorem evolveAbsorb_rule0_acc {w : Nat} (h : HashRegs w) : (evolveAbsorb 0 h).acc = h.acc :=
  absorb_of_cells_zero { h with cells := evolve h.cells 0 } (evolve_rule0 h.cells)

/-- RULE 0 clears S in the first step and never changes ACC. -/
theorem runSteps_rule0 {w : Nat} (n : Nat) (h : HashRegs w) :
    (runSteps 0 (n + 1) h).cells = 0 ∧ (runSteps 0 (n + 1) h).acc = h.acc := by
  induction n generalizing h with
  | zero => exact ⟨evolve_rule0 h.cells, evolveAbsorb_rule0_acc h⟩
  | succ n ih =>
    obtain ⟨hcells, hacc⟩ := ih (evolveAbsorb 0 h)
    exact ⟨hcells, hacc.trans (evolveAbsorb_rule0_acc h)⟩

/-- Settles O20: HASH leaves `cahash` of the effective message. -/
theorem hashOfNoStepsAndOfRuleZero : Obligations.HashOfNoStepsAndOfRuleZero := by
  refine fun s => ⟨_, rfl, fun h0 => ?_, fun h0 hr => ?_⟩
  · have hhash : s.hashOf s.msgBytes = { cells := initCells Config.W s.msgBytes, acc := 0, pos := 0 } := by
      rw [State.hashOf, cahash, State.stepCount, h0]
      rfl
    dsimp only [State.finish, State.setHashRegs]
    rw [hhash]
    exact ⟨rfl, initCells_eq_refInit _ _⟩
  · have hsteps : s.steps.toNat ≠ 0 := fun h => h0 (BitVec.eq_of_toNat_eq h)
    obtain ⟨n, hn⟩ := Nat.exists_eq_succ_of_ne_zero hsteps
    dsimp only [State.finish, State.setHashRegs]
    rw [State.hashOf, cahash, State.stepCount, hn, hr]
    obtain ⟨hcells, hacc⟩ := runSteps_rule0 n { cells := initCells Config.W s.msgBytes, acc := 0, pos := 0 }
    exact ⟨hacc, hcells⟩

end Sys2Proof.Machine
end

section
/-!
SUPPORT. Absorbing the post-step states one by one folds the source's bit stream (40_ca_engine.md R126).
-/

namespace Sys2Proof.Machine

/-- What accumulator position `k` takes in when a bit stream is absorbed from position `p` on. -/
def streamXor (stream : List Bool) (p k : Nat) : Bool :=
  xorRange (fun i => stream.getD i false && k == (p + i) % 256) stream.length

/-- The source's fold is the absorption from position 0. -/
theorem compress_getMsbD (stream : List Bool) (k : Nat) (hk : k < 256) :
    (compress stream).getMsbD k = streamXor stream 0 k := by
  rw [compress, seqOf_getMsbD, decide_eq_true hk, Bool.true_and]
  refine xorRange_congr fun i _ => ?_
  rw [Nat.zero_add, Bool.beq_comm]

theorem streamXor_mod (stream : List Bool) (p k : Nat) : streamXor stream (p % 256) k = streamXor stream p k := by
  refine xorRange_congr fun i _ => ?_
  rw [Nat.mod_add_mod]

/-- A stream in two parts: the second starts where the first ended. -/
theorem streamXor_append (l m : List Bool) (p k : Nat) :
    streamXor (l ++ m) p k = (streamXor l p k ^^ streamXor m (p + l.length) k) := by
  rw [streamXor, List.length_append, xorRange_add]
  congr 1 <;> refine xorRange_congr fun i hi => ?_
  · rw [List.getD_append _ _ _ _ hi]
  · rw [List.getD_append_right _ _ _ _ (by omega), Nat.add_sub_cancel_left, Nat.add_assoc]

/-- The bits of a CA state in order, as the stream holds them. -/
def cellList {w : Nat} (T : Cells w) : List Bool := (List.range w).map T.getMsbD

@[simp] theorem cellList_length {w : Nat} (T : Cells w) : (cellList T).length = w := by simp [cellList]

theorem bitStream_succ {w : Nat} (rule : BitVec 8) (n : Nat) (S : Cells w) :
    bitStream rule (n + 1) S = cellList (refEvolve S rule) ++ bitStream rule n (refEvolve S rule) :=
  List.flatMap_cons

/-- Absorbing a state is absorbing its cells as a stream. -/
theorem absorb_acc_eq_streamXor {w : Nat} (h : HashRegs w) (k : Nat) (hk : k < 256) :
    (absorb h).acc.getMsbD k = (h.acc.getMsbD k ^^ streamXor (cellList h.cells) h.pos.toNat k) := by
  rw [absorb_eq_refAbsorb, refAbsorb_acc_getMsbD h k hk, streamXor, cellList_length]
  congr 1
  refine xorRange_congr fun j hj => ?_
  simp [cellList, hj]

theorem runSteps_acc_eq_streamXor {w : Nat} (rule : BitVec 8) (n : Nat) (h : HashRegs w) (k : Nat) (hk : k < 256) :
    (runSteps rule n h).acc.getMsbD k =
      (h.acc.getMsbD k ^^ streamXor (bitStream rule n h.cells) h.pos.toNat k) := by
  induction n generalizing h with
  | zero => exact (Bool.xor_false _).symm
  | succ n ih =>
    have hpos : (h.pos + BitVec.ofNat 8 w).toNat = (h.pos.toNat + w) % 256 := by simp [BitVec.toNat_add]
    rw [runSteps_succ, ih, evolveAbsorb_cells, evolveAbsorb_pos, hpos, streamXor_mod, evolveAbsorb,
      absorb_acc_eq_streamXor _ k hk, bitStream_succ, streamXor_append, cellList_length, Bool.xor_assoc,
      evolve_eq_refEvolve]

/-- Settles O14: from POS = 0 and ACC = 0 only the stream is left. -/
theorem absorbingStatesFoldsTheStream : Obligations.AbsorbingStatesFoldsTheStream := by
  intro w rule n S
  refine BitVec.eq_of_getMsbD_eq fun k hk => ?_
  rw [runSteps_acc_eq_streamXor rule n _ k hk, compress_getMsbD _ k hk]
  simp

end Sys2Proof.Machine
end

section
/-!
SUPPORT. The light cone: a step carries information over at most one cell (40_ca_engine.md R129).
-/

namespace Sys2Proof.Machine

/-- The two states agree on the cells within `t` of cell `i`. -/
def AgreeNear {w : Nat} (S S' : Cells w) (i t : Nat) : Prop :=
  ∀ j, j < w → i ≤ j + t → j ≤ i + t → S.getMsbD j = S'.getMsbD j

/-- Past the last cell both states hold the boundary's 0, so agreement needs no bound on the cell. -/
theorem AgreeNear.cell {w : Nat} {S S' : Cells w} {i t : Nat} (h : AgreeNear S S' i t) (j : Nat) (h1 : i ≤ j + t)
    (h2 : j ≤ i + t) : S.getMsbD j = S'.getMsbD j := by
  by_cases hj : j < w
  · exact h j hj h1 h2
  · rw [BitVec.getMsbD_of_ge _ _ (not_lt.1 hj), BitVec.getMsbD_of_ge _ _ (not_lt.1 hj)]

/-- A step costs one cell of distance on each side. -/
theorem AgreeNear.evolve {w : Nat} {S S' : Cells w} {i t : Nat} (rule : BitVec 8) (h : AgreeNear S S' i (t + 1)) :
    AgreeNear (evolve S rule) (evolve S' rule) i t := by
  intro j hj h1 h2
  have hleft := h.cell (j - 1) (by omega) (by omega)
  have hcenter := h.cell j (by omega) (by omega)
  have hright := h.cell (j + 1) (by omega) (by omega)
  rw [evolve_getMsbD S rule j hj, evolve_getMsbD S' rule j hj, neighbourhood_eq, neighbourhood_eq, hleft, hcenter,
    hright]

theorem runSteps_cell_of_agreeNear {w : Nat} (rule : BitVec 8) (t : Nat) (h h' : HashRegs w) (i : Nat)
    (hagree : AgreeNear h.cells h'.cells i t) :
    (runSteps rule t h).cells.getMsbD i = (runSteps rule t h').cells.getMsbD i := by
  induction t generalizing h h' with
  | zero => exact hagree.cell i (Nat.le_refl i) (Nat.le_refl i)
  | succ t ih => exact ih _ _ (hagree.evolve rule)

/-- Settles O15: the cone narrows by one cell with each step. -/
theorem cellLightCone : Obligations.CellLightCone := fun _ rule t h h' i _ =>
  runSteps_cell_of_agreeNear rule t h h' i

/-- ACC bit `k` takes in cells `k` and `k + 256` after each step, so it sees the cones of both. -/
theorem runSteps_acc_of_agreeNear (rule : BitVec 8) (n : Nat) (h h' : HashRegs Config.W) (k : Nat) (hk : k < 256)
    (hpos : h.pos = 0) (hpos' : h'.pos = 0) (hacc : h.acc.getMsbD k = h'.acc.getMsbD k)
    (hlow : AgreeNear h.cells h'.cells k n) (hhigh : AgreeNear h.cells h'.cells (k + 256) n) :
    (runSteps rule n h).acc.getMsbD k = (runSteps rule n h').acc.getMsbD k := by
  induction n generalizing h h' with
  | zero => exact hacc
  | succ n ih =>
    have hlow' := hlow.evolve rule
    have hhigh' := hhigh.evolve rule
    refine ih _ _ ((absorb_pos_width _).trans hpos) ((absorb_pos_width _).trans hpos') ?_ hlow' hhigh'
    rw [evolveAbsorb_acc_getMsbD_width rule h hpos k hk, evolveAbsorb_acc_getMsbD_width rule h' hpos' k hk, hacc,
      hlow'.cell k (by omega) (by omega), hhigh'.cell (k + 256) (by omega) (by omega)]

/-- Settles O16: both runs start from ACC = 0 and POS = 0. -/
theorem digestLightCone : Obligations.DigestLightCone := fun rule n _ _ k hk hagree =>
  runSteps_acc_of_agreeNear rule n _ _ k hk rfl rfl rfl
    (fun j hj h1 h2 => hagree j hj (.inl ⟨h1, h2⟩)) (fun j hj h1 h2 => hagree j hj (.inr ⟨h1, h2⟩))

end Sys2Proof.Machine
end

section
/-!
SUPPORT. Words that decoded to ILLEGAL (41_hash_mining.md R182), and the CA hash that HASH leaves (R166, R167).
-/

namespace Sys2Proof.Machine

/-! ## ILLEGAL (41_hash_mining.md R182) -/

/-- The rows that are the spec's ILLEGAL (log 4). -/
def IsIllegal (i : Instr) : Prop :=
  i = .reservedB ∨ i = .reservedC ∨ i = .reservedD ∨ i = .reservedE ∨ i = .reservedF ∨ ∃ w, i = .illegal w

theorem IsIllegal.exec {i : Instr} (h : IsIllegal i) (s : State) : exec i s = .next (s.finish .illegalCmd) := by
  obtain rfl | rfl | rfl | rfl | rfl | ⟨w, rfl⟩ := h <;> rfl

/-- The opcodes above 0xA are the reserved rows (30_encoding.md R105). -/
theorem decodeOp_reserved : ∀ op : BitVec 4, 0xA < op.toNat →
    decodeOp op = .reservedB ∨ decodeOp op = .reservedC ∨ decodeOp op = .reservedD ∨ decodeOp op = .reservedE ∨
      decodeOp op = .reservedF := by
  decide

/-- A word above 0xA decodes to ILLEGAL: by its opcode, or by a nonzero bit in 31:4. -/
theorem decode_isIllegal {v : Word} (hv : 0xA < v.toNat) : IsIllegal (decode v) := by
  by_cases h : v.extractLsb' 4 28 = 0#28
  · have hop : (v.extractLsb' 0 4).toNat = v.toNat := by
      have hwiden := congrArg BitVec.toNat (setWidth_op_of_highBits_zero h)
      rwa [BitVec.toNat_setWidth_of_le (by decide)] at hwiden
    have hreserved := decodeOp_reserved (v.extractLsb' 0 4) (hop.symm ▸ hv)
    rw [decode_of_highBits_zero h]
    unfold IsIllegal
    tauto
  · rw [decode_of_highBits_ne_zero h]
    unfold IsIllegal
    simp

/-- Settles O3: each of the six rows finishes with ILLEGAL_CMD, and a word above 0xA decodes to one of them. -/
theorem IsIllegal.illegalCompletion : Obligations.IllegalCompletion :=
  ⟨fun _ s h => IsIllegal.exec h s, fun _ s hv => (decode_isIllegal hv).exec s⟩

/-! ## The CA hash (40_ca_engine.md R125) -/

theorem cahash_eq_refHash (w : Nat) (m : List Byte) (rule : BitVec 8) (steps : Nat) :
    cahash w m rule steps = refHash w m rule steps := by
  rw [cahash, refHash, runSteps_eq_refRun, initCells_eq_refInit]

/-- The transition of HASH (41_hash_mining.md R166). -/
theorem exec_hash (s : State) : exec .hash s =
    .next (State.finish .ok { s.setHashRegs (s.hashOf s.msgBytes) with digest := (s.hashOf s.msgBytes).acc }) := rfl

/-- Settles O17: HASH leaves `cahash`, the reference hash; CLRACC, INIT and RUN set up its start and run its loop. -/
theorem hashLeavesTheCaHash : Obligations.HashLeavesTheCaHash := fun s =>
  ⟨s.hashOf s.msgBytes, cahash_eq_refHash _ _ _ _, exec_hash s, _, _, rfl, rfl, rfl⟩

/-! ## HASH looks at the effective message only (41_hash_mining.md R167) -/

theorem State.msgBytes_congr {s s' : State} (hlen : min s.mlen.toNat 64 = min s'.mlen.toNat 64)
    (hmsg : ∀ (k : Nat) (_ : k < 64), k < min s.mlen.toNat 64 → s.msg[k] = s'.msg[k]) :
    s.msgBytes = s'.msgBytes := by
  refine List.ext_getElem (by rw [s.msgBytes_length, s'.msgBytes_length, hlen]) fun k hk _ => ?_
  rw [s.msgBytes_length] at hk
  simpa [State.msgBytes] using hmsg k (by omega) hk

/-- Settles O18: the hash of equal effective messages under equal RULE and STEPS. -/
theorem hashIsDeterminedByTheEffectiveMessage : Obligations.HashIsDeterminedByTheEffectiveMessage := by
  intro s s' hlen hrule hsteps hmsg
  have hhash : s.hashOf s.msgBytes = s'.hashOf s'.msgBytes := by
    rw [State.hashOf, State.hashOf, State.msgBytes_congr hlen hmsg, State.stepCount, State.stepCount, hrule, hsteps]
  exact ⟨_, _, exec_hash s, exec_hash s', congrArg HashRegs.acc hhash, congrArg HashRegs.cells hhash⟩

/-! ## HASH of the empty message (41_hash_mining.md R166; 90_conflicts.md C8) -/

theorem initCells_nil (w : Nat) : initCells w [] = 0 := by
  refine BitVec.eq_of_getMsbD_eq fun c hc => ?_
  rw [initCells_getMsbD w [] c hc]
  simp

/-- A set of states that a step does not leave and whose absorption does not change ACC: a run stays in it and leaves
ACC alone. -/
theorem runSteps_invariant {w : Nat} {rule : BitVec 8} (P : Cells w → Prop)
    (hevolve : ∀ S, P S → P (evolve S rule)) (habsorb : ∀ h : HashRegs w, P h.cells → (absorb h).acc = h.acc)
    (n : Nat) (h : HashRegs w) (hP : P h.cells) :
    P (runSteps rule n h).cells ∧ (runSteps rule n h).acc = h.acc := by
  induction n generalizing h with
  | zero => exact ⟨hP, rfl⟩
  | succ n ih =>
    obtain ⟨hcells, hacc⟩ := ih (evolveAbsorb rule h) (hevolve h.cells hP)
    exact ⟨hcells, hacc.trans (habsorb { h with cells := evolve h.cells rule } (hevolve h.cells hP))⟩

theorem evolve_zero {w : Nat} {rule : BitVec 8} (h0 : rule.getLsbD 0 = false) : evolve (0 : Cells w) rule = 0 := by
  refine BitVec.eq_of_getMsbD_eq fun i hi => ?_
  rw [evolve_getMsbD _ rule i hi, neighbourhood_eq]
  simpa using h0

theorem evolve_zero_of_rule_zero_set {w : Nat} {rule : BitVec 8} (h0 : rule.getLsbD 0 = true) :
    evolve (0 : Cells w) rule = BitVec.allOnes w := by
  refine BitVec.eq_of_getMsbD_eq fun i hi => ?_
  rw [evolve_getMsbD _ rule i hi, neighbourhood_eq]
  simpa [hi] using h0

/-- In a state of ones of at least two cells the neighbourhoods are 3 at cell 0, 6 at the last cell and 7 between. -/
theorem evolve_allOnes {w : Nat} (hw : 2 ≤ w) {rule : BitVec 8} (b : Bool) (h3 : rule.getLsbD 3 = b)
    (h6 : rule.getLsbD 6 = b) (h7 : rule.getLsbD 7 = b) :
    evolve (BitVec.allOnes w) rule = if b then BitVec.allOnes w else 0 := by
  refine BitVec.eq_of_getMsbD_eq fun i hi => ?_
  have hentry : rule.getLsbD (neighbourhood (BitVec.allOnes w) i) = b := by
    rw [neighbourhood_eq]
    obtain rfl | hlast | ⟨hfirst, hlast⟩ : i = 0 ∨ i + 1 = w ∨ 0 < i ∧ i + 1 < w := by omega
    · simpa [show 0 < w by omega, show 1 < w by omega] using h3
    · simpa [hi, hlast, show 0 < i by omega, show i - 1 < w by omega] using h6
    · simpa [hi, hlast, hfirst, show i - 1 < w by omega] using h7
  rw [evolve_getMsbD _ rule i hi, hentry]
  cases b <;> simp [hi]

/-- All cells 0 or all cells 1. -/
def IsUniform {w : Nat} (S : Cells w) : Prop := S = 0 ∨ S = BitVec.allOnes w

theorem IsUniform.evolve {w : Nat} (hw : 2 ≤ w) {rule : BitVec 8} (h0 : rule.getLsbD 0 = true)
    (h36 : rule.getLsbD 3 = rule.getLsbD 6) (h67 : rule.getLsbD 6 = rule.getLsbD 7) (S : Cells w)
    (hS : IsUniform S) : IsUniform (evolve S rule) := by
  obtain rfl | rfl := hS
  · exact .inr (evolve_zero_of_rule_zero_set h0)
  · rw [evolve_allOnes hw _ (h36.trans h67) h67 rfl]
    split_ifs
    · exact .inr rfl
    · exact .inl rfl

/-- Each position takes in two cells for `W = 512`, which cancel when they are equal. -/
theorem absorb_of_isUniform_width (h : HashRegs Config.W) (hS : IsUniform h.cells) : (absorb h).acc = h.acc := by
  obtain hS | hS := hS
  · exact absorb_of_cells_zero h hS
  · refine BitVec.eq_of_getMsbD_eq fun k hk => ?_
    have hlt := Nat.mod_lt (k + 256 - h.pos.toNat) (show 0 < 256 by decide)
    rw [absorb_acc_getMsbD h k hk, hS, show (Config.W + 255) / 256 = 2 from rfl]
    simp [xorRange_succ, show (k + 256 - h.pos.toNat) % 256 < 512 by omega,
      show 256 + (k + 256 - h.pos.toNat) % 256 < 512 by omega]

/-- The hash of the empty message is a run from all cells 0. -/
theorem State.hashOf_empty (s : State) (h : s.mlen = 0) :
    s.hashOf s.msgBytes = runSteps s.rule s.stepCount { cells := 0, acc := 0, pos := 0 } := by
  have hnil : s.msgBytes = [] := List.eq_nil_of_length_eq_zero (by rw [s.msgBytes_length, h]; rfl)
  rw [State.hashOf, hnil, cahash, initCells_nil]

/-- Settles O19: under each condition on RULE a set of uniform states is kept, and absorbing one does not change ACC. -/
theorem hashOfTheEmptyMessage : Obligations.HashOfTheEmptyMessage := by
  refine fun s hm => ⟨_, exec_hash s, fun h0 => ?_, fun h0 h36 h67 => ?_⟩ <;>
    dsimp only [State.finish, State.setHashRegs] <;> rw [s.hashOf_empty hm]
  · have hkeep : ∀ S : Cells Config.W, S = 0 → evolve S s.rule = 0 := fun S hS => by rw [hS, evolve_zero h0]
    obtain ⟨hcells, hacc⟩ := runSteps_invariant (· = 0) hkeep absorb_of_cells_zero s.stepCount
      { cells := 0, acc := 0, pos := 0 } rfl
    exact ⟨hacc, hcells⟩
  · obtain ⟨hcells, hacc⟩ := runSteps_invariant IsUniform (IsUniform.evolve (by decide) h0 h36 h67)
      absorb_of_isUniform_width s.stepCount { cells := (0 : Cells Config.W), acc := 0, pos := 0 } (.inl rfl)
    exact ⟨hacc, hcells⟩

end Sys2Proof.Machine
end

section
/-!
SUPPORT. The difficulty predicate in its forms, the decimal nonce and the preimage (41_hash_mining.md R161-R163), and
CHECK (R168).
-/

namespace Sys2Proof.Machine

/-! ## A digest as a number (00_scope.md R18) -/

theorem getMsbD_toNat_eq_mod (D : Digest) (k : Nat) (hk : k < 256) :
    (D.getMsbD k).toNat = D.toNat / 2 ^ (255 - k) % 2 := by
  rw [BitVec.getMsbD, decide_eq_true hk, Bool.true_and, show 256 - 1 - k = 255 - k by omega, ← BitVec.testBit_toNat,
    Nat.toNat_testBit]

/-- The first `n` terms of `digestInt` are the number with its lower bits cleared. -/
theorem digestInt_leading (D : Digest) (n : Nat) (hn : n ≤ 256) :
    (List.range n).foldl (fun v k => v + (D.getMsbD k).toNat * 2 ^ (255 - k)) 0 =
      D.toNat / 2 ^ (256 - n) * 2 ^ (256 - n) := by
  induction n with
  | zero => simp [Nat.div_eq_of_lt D.isLt]
  | succ n ih =>
    have hpow : 2 ^ (256 - n) = 2 ^ (255 - n) * 2 := by
      rw [← Nat.pow_succ]
      congr 1
      omega
    rw [List.range_succ, List.foldl_append, ih (by omega), List.foldl_cons, List.foldl_nil,
      getMsbD_toNat_eq_mod D n (by omega), hpow, show 256 - (n + 1) = 255 - n by omega, ← Nat.div_div_eq_div_mul]
    generalize D.toNat / 2 ^ (255 - n) = q
    calc q / 2 * (2 ^ (255 - n) * 2) + q % 2 * 2 ^ (255 - n)
        = (2 * (q / 2) + q % 2) * 2 ^ (255 - n) := by ring
      _ = q * 2 ^ (255 - n) := by rw [Nat.div_add_mod]

theorem digestInt_eq_toNat (D : Digest) : digestInt D = D.toNat := by
  rw [digestInt, digestInt_leading D 256 (Nat.le_refl _)]
  simp

/-- The first `n` bits are 0 exactly when the number fits in the other bits. -/
theorem leading_zero_iff_toNat_lt (D : Digest) (n : Nat) (hn : n ≤ 256) :
    (∀ k, k < n → D.getMsbD k = false) ↔ D.toNat < 2 ^ (256 - n) := by
  constructor
  · intro h
    refine Nat.lt_pow_two_of_testBit _ fun i hi => ?_
    by_cases hlt : i < 256
    · have hbit := h (255 - i) (by omega)
      rwa [BitVec.getMsbD, decide_eq_true (show 255 - i < 256 by omega), Bool.true_and,
        show 256 - 1 - (255 - i) = i by omega, ← BitVec.testBit_toNat] at hbit
    · exact BitVec.getLsbD_of_ge D i (not_lt.1 hlt)
  · intro h k hk
    rw [BitVec.getMsbD, ← BitVec.testBit_toNat, Bool.and_eq_false_iff]
    exact .inr (Nat.testBit_lt_two_pow (h.trans_le (Nat.pow_le_pow_right (by decide) (by omega))))

/-! ## A digest as text (00_scope.md R18) -/

theorem hexDigit_lt (D : Digest) (k : Nat) : hexDigit D k < 16 := by
  have hle := fun i => (D.getMsbD i).toNat_le
  have h0 := hle (4 * k)
  have h1 := hle (4 * k + 1)
  have h2 := hle (4 * k + 2)
  have h3 := hle (4 * k + 3)
  unfold hexDigit
  omega

theorem digitChar_eq_zero_iff : ∀ v, v < 16 → (Nat.digitChar v = '0' ↔ v = 0) := by decide

theorem hex_take (D : Digest) (d : Nat) (hd : d ≤ 64) :
    (hex D).toList.take d = (List.range d).map fun k => Nat.digitChar (hexDigit D k) := by
  rw [hex, String.toList_ofList, ← List.map_take, List.take_range, Nat.min_eq_left hd]

theorem refMeets_iff_hex (D : Digest) (d : Nat) (hd : d ≤ 64) :
    refMeets D d ↔ (hex D).toList.take d = List.replicate d '0' := by
  rw [hex_take D d hd, List.eq_replicate_iff]
  simp [hd, digitChar_eq_zero_iff _ (hexDigit_lt D _)]

/-- Settles O21: the predicate's bits are those of the digits, of the characters and of the number. -/
theorem meetsInItsForms : Obligations.MeetsInItsForms := by
  refine fun D d => ⟨meets_eq_true_iff D d, meets_eq_true_iff_refMeets D d, fun hd => ?_, fun hd => ?_⟩
  · rw [meets_eq_true_iff_refMeets, refMeets_iff_hex D d hd]
  · rw [meets_eq_true_iff, digestInt_eq_toNat, ← leading_zero_iff_toNat_lt D (4 * d) (by omega)]
    exact and_iff_right hd

/-! ## CHECK (41_hash_mining.md R168) -/

/-- A choice on the predicate is the choice on the spec's form of it. -/
theorem ite_meets_eq {α : Type} (D : Digest) (d : Nat) (x y : α) :
    (if meets D d = true then x else y) = if refMeets D d then x else y :=
  if_congr (meets_eq_true_iff_refMeets D d) rfl rfl

/-- Settles O26: CHECK is `finish` with the predicate's answer on EXP. -/
theorem checkTestsExp : Obligations.CheckTestsExp := by
  intro s
  rw [← ite_meets_eq]
  rfl

/-! ## The decimal nonce (41_hash_mining.md R162) -/

theorem decValue_append_digitByte (l : List Byte) (d : Nat) (hd : d < 10) :
    decValue (l ++ [digitByte d]) = 10 * decValue l + d := by
  rw [decValue, List.foldl_append, List.foldl_cons, List.foldl_nil, digitByte_toNat d hd, Nat.add_sub_cancel_left]
  rfl

theorem decDigits_value (fuel n : Nat) (hn : n < 10 ^ (fuel + 1)) : decValue (decDigits (fuel + 1) n) = n := by
  induction fuel generalizing n with
  | zero =>
    rw [decDigits_small 0 n (by omega)]
    simpa [decValue] using decValue_append_digitByte [] n (by omega)
  | succ fuel ih =>
    by_cases h : n < 10
    · rw [decDigits_small _ n h]
      simpa [decValue] using decValue_append_digitByte [] n h
    · rw [decDigits_large _ n (not_lt.1 h), decValue_append_digitByte _ _ (Nat.mod_lt _ (by decide)),
        ih (n / 10) (by omega), Nat.div_add_mod]

theorem digitByte_range (d : Nat) (hd : d < 10) : 0x30 ≤ (digitByte d).toNat ∧ (digitByte d).toNat ≤ 0x39 := by
  rw [digitByte_toNat d hd]
  omega

theorem decDigits_range (fuel n : Nat) : ∀ b ∈ decDigits fuel n, 0x30 ≤ b.toNat ∧ b.toNat ≤ 0x39 := by
  induction fuel generalizing n with
  | zero => simp [decDigits]
  | succ fuel ih =>
    intro b hb
    by_cases h : n < 10
    · rw [decDigits_small _ n h, List.mem_singleton] at hb
      exact hb ▸ digitByte_range n h
    · rw [decDigits_large _ n (not_lt.1 h), List.mem_append, List.mem_singleton] at hb
      obtain hb | rfl := hb
      · exact ih _ b hb
      · exact digitByte_range _ (Nat.mod_lt _ (by decide))

theorem decDigits_length_le (fuel n : Nat) : (decDigits fuel n).length ≤ fuel := by
  induction fuel generalizing n with
  | zero => simp [decDigits]
  | succ fuel ih =>
    by_cases h : n < 10
    · simp [decDigits_small _ n h]
    · simpa [decDigits_large _ n (not_lt.1 h)] using ih (n / 10)

theorem decDigits_ne_nil (fuel n : Nat) : decDigits (fuel + 1) n ≠ [] := by
  by_cases h : n < 10
  · simp [decDigits_small _ n h]
  · simp [decDigits_large _ n (not_lt.1 h)]

theorem eq_zero_of_digitByte_head {n : Nat} (hn : n < 10) (h : [digitByte n].head? = some 0x30#8) : n = 0 := by
  have hbyte := digitByte_toNat n hn
  rw [Option.some.inj h] at hbyte
  simpa using hbyte

/-- The leading digit is 0 only for the number 0: of a longer number the digits above the last spell `n / 10`. -/
theorem decDigits_head_zero (fuel n : Nat) (hn : n < 10 ^ (fuel + 1))
    (h : (decDigits (fuel + 1) n).head? = some 0x30#8) : n = 0 := by
  induction fuel generalizing n with
  | zero =>
    rw [decDigits_small 0 n (by omega)] at h
    exact eq_zero_of_digitByte_head (by omega) h
  | succ fuel ih =>
    by_cases hsmall : n < 10
    · rw [decDigits_small _ n hsmall] at h
      exact eq_zero_of_digitByte_head hsmall h
    · rw [decDigits_large _ n (not_lt.1 hsmall), List.head?_append_of_ne_nil _ (decDigits_ne_nil _ _)] at h
      have hzero := ih (n / 10) (by omega) h
      omega

/-- Settles O23: ten digits are enough for a word. -/
theorem decSpellsTheNonce : Obligations.DecSpellsTheNonce := by
  intro n
  have hn : n.toNat < 10 ^ (9 + 1) := n.isLt.trans (by decide)
  refine ⟨decDigits_value 9 _ hn, decDigits_range 10 _, List.length_pos_of_ne_nil (decDigits_ne_nil 9 _),
    decDigits_length_le 10 _, fun h => ?_⟩
  rw [dec, decDigits_head_zero 9 _ hn h]
  rfl

/-! ## The preimage (41_hash_mining.md R163) -/

theorem State.preimageOf_of_full (s : State) (n : Word) (h : 64 ≤ s.mlen.toNat) : s.preimageOf n = s.msg.toList :=
  if_pos h

theorem State.preimageOf_length (s : State) (n : Word) (h : s.mlen.toNat < 64) :
    (s.preimageOf n).length = min 64 (s.mlen.toNat + (dec n).length) := by
  rw [s.preimageOf_eq_append, List.length_append, s.take_msg_length h, List.length_take]
  omega

theorem State.preimageOf_message (s : State) (n : Word) (h : s.mlen.toNat < 64) (k : Nat) (hk : k < s.mlen.toNat) :
    (s.preimageOf n)[k]? = s.msg[k]? := by
  rw [s.preimageOf_eq_append, List.getElem?_append_left (by rwa [s.take_msg_length h]), List.getElem?_take_of_lt hk]
  simp

theorem State.preimageOf_nonce (s : State) (n : Word) (k : Nat) (hk : s.mlen.toNat + k < 64) :
    (s.preimageOf n)[s.mlen.toNat + k]? = (dec n)[k]? := by
  have hlen := s.take_msg_length (by omega)
  rw [s.preimageOf_eq_append, List.getElem?_append_right (by omega), hlen, Nat.add_sub_cancel_left,
    List.getElem?_take_of_lt (by omega)]

/-- Settles O24: the three lemmas above at the current NONCE. -/
theorem preimageIsPrefixThenNonce : Obligations.PreimageIsPrefixThenNonce := fun s =>
  ⟨s.preimageOf_of_full s.nonce, fun h =>
    ⟨s.preimageOf_length s.nonce h, s.preimageOf_message s.nonce h, s.preimageOf_nonce s.nonce⟩⟩

end Sys2Proof.Machine
end

section
/-!
SUPPORT. The MINE step, VERIFY and ABORT, one transition each (41_hash_mining.md R170-R180).
-/

namespace Sys2Proof.Machine

/-! ## The hash of a preimage -/

theorem State.hashOf_preimageOf (s : State) (n : Word) : s.hashOf (s.preimageOf n) = s.refHashAt n :=
  cahash_eq_refHash _ _ _ _

theorem State.mineHash_eq_ref (s : State) :
    s.mineHash = { s with
      nonce := s.nonce + 1, attempts := s.attempts + 1, cells := (s.refHashAt (s.nonce + 1)).cells
      acc := (s.refHashAt (s.nonce + 1)).acc, pos := (s.refHashAt (s.nonce + 1)).pos } := by
  rw [s.mineHash_eq, s.hashOf_preimageOf]

theorem State.mineHash_acc (s : State) : s.mineHash.acc = (s.refHashAt (s.nonce + 1)).acc := by
  rw [s.mineHash_eq_ref]

/-- An attempt leaves the hash at the new NONCE in the working registers. -/
theorem State.mineHash_hashRegs (s : State) : s.mineHash.hashRegs = s.mineHash.refHashAt s.mineHash.nonce :=
  s.hashOf_preimageOf (s.nonce + 1)

/-! ## The checks of a MINE step (41_hash_mining.md R170) -/

/-- A MINE step makes an attempt: none of the four checks applies. -/
structure State.CanAttempt (s : State) : Prop where
  diff_le : s.diff.toNat ≤ 64
  abortReq : s.abortReq = false
  below_cap : s.maxatt = 0 ∨ s.attempts ≠ s.maxatt
  nonce_ne_max : s.nonce ≠ 0xFFFFFFFF#32

theorem exec_mine_badDiff {s : State} (h : 64 < s.diff.toNat) : exec .mine s = .next (s.finish .badDiff) := by
  obtain ⟨-, he⟩ | ⟨hd, -⟩ | ⟨hd, -⟩ | ⟨hd, -⟩ := execMine_cases s
  · exact he
  all_goals omega

theorem exec_mine_aborted {s : State} (hd : s.diff.toNat ≤ 64) (h : s.abortReq = true) :
    exec .mine s = .next (s.finish .aborted) := by
  obtain ⟨hgt, -⟩ | ⟨-, -, he⟩ | ⟨-, ha, -⟩ | ⟨-, ha, -⟩ := execMine_cases s
  · omega
  · exact he
  all_goals exact absurd h (Bool.eq_false_iff.1 ha)

theorem exec_mine_exhausted {s : State} (hd : s.diff.toNat ≤ 64) (ha : s.abortReq = false)
    (h : s.maxatt ≠ 0 ∧ s.attempts = s.maxatt ∨ s.nonce = 0xFFFFFFFF#32) :
    exec .mine s = .next (s.finish .exhausted) := by
  obtain ⟨hgt, -⟩ | ⟨-, habort, -⟩ | ⟨-, -, -, he⟩ | ⟨-, -, hcap, hnonce, -⟩ := execMine_cases s
  · omega
  · exact absurd habort (Bool.eq_false_iff.1 ha)
  · exact he
  · tauto

theorem State.CanAttempt.exec_mine {s : State} (h : s.CanAttempt) : exec .mine s = .next s.mineAttempt := by
  obtain ⟨hd, ha, hcap, hnonce⟩ := h
  obtain ⟨hgt, -⟩ | ⟨-, habort, -⟩ | ⟨-, -, hstop, -⟩ | ⟨-, -, -, -, he⟩ := execMine_cases s
  · omega
  · exact absurd habort (Bool.eq_false_iff.1 ha)
  · tauto
  · exact he

/-- Settles O27: NONCE at its last value stops a MINE that has not reached its cap as the cap does. -/
theorem mineStopsInPriorityOrder : Obligations.MineStopsInPriorityOrder := fun _ =>
  ⟨exec_mine_badDiff, exec_mine_aborted, fun hd ha hm hcap => exec_mine_exhausted hd ha (.inl ⟨hm, hcap⟩),
    fun hd ha _ hnonce => exec_mine_exhausted hd ha (.inr hnonce)⟩

/-! ## One attempt (41_hash_mining.md R171) -/

theorem State.CanAttempt.exec_mine_met {s : State} (h : s.CanAttempt)
    (hmet : refMeets (s.refHashAt (s.nonce + 1)).acc s.diff.toNat) :
    exec .mine s = .next (State.finish .ok { s.mineHash with digest := s.mineHash.acc }) := by
  rw [← s.mineHash_acc] at hmet
  exact h.exec_mine.trans (congrArg _ (s.mineHash.judgeAttempt_met ((meets_eq_true_iff_refMeets _ _).2 hmet)))

theorem State.CanAttempt.exec_mine_unmet {s : State} (h : s.CanAttempt)
    (hunmet : ¬ refMeets (s.refHashAt (s.nonce + 1)).acc s.diff.toNat) : exec .mine s = .next s.mineHash := by
  rw [← s.mineHash_acc, ← meets_eq_true_iff_refMeets, Bool.not_eq_true] at hunmet
  exact h.exec_mine.trans (congrArg _ (s.mineHash.judgeAttempt_unmet hunmet))

/-- Settles O28: the attempt's registers are `mineHash`, and the verdict is on its ACC. -/
theorem mineAttempt : Obligations.MineAttempt := by
  intro s hd ha hcap hnonce
  have hcan : s.CanAttempt := ⟨hd, ha, hcap, hnonce⟩
  refine ⟨s.refHashAt (s.nonce + 1), rfl, nonce_succ_toNat _ hnonce, fun hmet => ?_, fun hunmet => ?_⟩
  · rw [hcan.exec_mine_met hmet, s.mineHash_eq_ref]
    rfl
  · rw [hcan.exec_mine_unmet hunmet, s.mineHash_eq_ref]

/-! ## VERIFY (41_hash_mining.md R175, R176) -/

theorem State.verdict_eq_ref (s : State) (d : Digest) :
    s.verdict d =
      if d ≠ s.exp then .hashMismatch else if refMeets s.exp s.diff.toNat then .ok else .difficultyUnmet := by
  rw [State.verdict, ite_meets_eq]
  rfl

/-- The transition of VERIFY. -/
theorem exec_verify (s : State) :
    exec .verify s =
      .next ((s.setHashRegs (s.refHashAt s.nonce)).finish (s.verdict (s.refHashAt s.nonce).acc)) := by
  rw [← s.hashOf_preimageOf]
  rfl

/-- Settles O32: the transition of VERIFY with its verdict in the spec's terms. -/
theorem verifyOutcome : Obligations.VerifyOutcome := by
  refine fun s => ⟨s.refHashAt s.nonce, rfl, ?_⟩
  rw [exec_verify, s.verdict_eq_ref]
  rfl

/-- A MINE step that ends OK is an attempt that met the target. -/
theorem exec_mine_ok {s t : State} (hbusy : s.op = some .mine) (h : exec .mine s = .next t) (hop : t.op = none)
    (hok : t.result = .ok) :
    t = State.finish .ok { s.mineHash with digest := s.mineHash.acc } ∧
      meets s.mineHash.acc s.diff.toNat = true := by
  obtain ⟨-, he⟩ | ⟨-, -, he⟩ | ⟨-, -, -, he⟩ | ⟨-, -, -, -, he⟩ := execMine_cases s <;>
    obtain rfl := Host.Outcome.next.inj (he.symm.trans h)
  case inr.inr.inr =>
    obtain ⟨hmet, heq⟩ | ⟨-, heq⟩ := s.mineAttempt_cases
    · exact ⟨heq, hmet⟩
    · rw [heq] at hop
      cases hbusy.symm.trans hop
  all_goals cases hok

theorem State.verdict_ok {s : State} {d : Digest} (hd : d = s.exp) (h : meets s.exp s.diff.toNat = true) :
    s.verdict d = .ok := by
  rw [State.verdict, if_neg (not_not.2 hd)]
  exact if_pos h

/-- VERIFY of registers that hold the hash at NONCE, with EXP = ACC, changes nothing but STATUS. -/
theorem exec_verify_of_fresh {s : State} (hregs : s.hashRegs = s.refHashAt s.nonce) (hexp : s.acc = s.exp)
    (hmet : meets s.exp s.diff.toNat = true) : exec .verify s = .next (s.finish .ok) := by
  have hverdict : s.verdict s.hashRegs.acc = .ok := State.verdict_ok hexp hmet
  rw [exec_verify, ← hregs, hverdict]
  rfl

/-- Settles O33: the nonce stands in NONCE, so VERIFY computes the attempt's hash again and finds it in EXP. -/
theorem verifyConfirmsAMine : Obligations.VerifyConfirmsAMine := by
  intro s t hbusy h hop hok
  obtain ⟨rfl, hmet⟩ := exec_mine_ok hbusy h hop hok
  exact exec_verify_of_fresh s.mineHash_hashRegs rfl hmet

/-- Settles O34: the preimage, and with it all that VERIFY computes, is the same for both nonces. -/
theorem verifyMissesAnUnhashedNonce : Obligations.VerifyMissesAnUnhashedNonce := by
  intro s n n' hdigits
  have hpre : s.preimageOf n = s.preimageOf n' := by
    rw [s.preimageOf_eq_append, s.preimageOf_eq_append, hdigits]
  have hhash : s.refHashAt n = s.refHashAt n' := by
    rw [State.refHashAt, State.refHashAt, hpre]
  refine ⟨(s.setHashRegs (s.refHashAt n)).finish (s.verdict (s.refHashAt n).acc), exec_verify _, ?_⟩
  rw [hhash]
  exact exec_verify _

/-! ## ABORT while a MINE is busy (41_hash_mining.md R180) -/

theorem State.write_abort (s : State) (h : s.op = some .mine) :
    s.transact (.write 0x00C#12 0x0000000A#32) = s.requestAbort := by
  rw [State.transact_write, targetAt_cmd]
  exact (s.cmdWrite_busy _ _ h).trans (if_pos ⟨rfl, rfl⟩)

/-- A request that stands already is no change. -/
theorem State.requestAbort_of_requested (s : State) (h : s.abortReq = true) : s.requestAbort = s := by
  rw [State.requestAbort, ← h]

/-- Settles O35: the write is `requestAbort`, and the step after it sees ABORTREQ set. -/
theorem abortEndsAMine : Obligations.AbortEndsAMine := by
  intro s hop
  rw [s.write_abort hop]
  exact ⟨rfl, s.requestAbort_of_requested, fun hd => exec_mine_aborted (s := s.requestAbort) hd rfl⟩

end Sys2Proof.Machine
end

section
/-!
SUPPORT. A whole MINE, left to itself: where its failed attempts lead, and how it ends (41_hash_mining.md R170-R173).
-/

namespace Sys2Proof.Machine

/-! ## Steps and runs -/

/-- The engine's turn while busy is the engine transition of the latched command (60_exceptions.md R202). -/
theorem step_engine_busy {s : State} {i : Instr} (he : s.nextEvent = .engine) (h : s.op = some i) :
    step s = exec i s.advance := by
  rw [step, transition, he, deliver, engineTurn, State.advance_op, h]

theorem RunsTo.snoc {k : Nat} {s t u : State} (h : RunsTo k s t) (ht : step t = .next u) : RunsTo (k + 1) s u := by
  induction k generalizing s with
  | zero =>
    obtain rfl := Host.Outcome.next.inj h
    exact RunsTo.succ ht (RunsTo.zero u)
  | succ k ih =>
    obtain ⟨r, hr⟩ := step_answers_next s
    exact RunsTo.succ hr (ih ((hostRun_succ Sys2Proof.core k s r hr).symm.trans h))

/-! ## A MINE left to itself -/

/-- A MINE is busy with nothing scheduled, and its first two checks pass. -/
structure State.Searching (s : State) : Prop where
  inv : s.Inv
  op : s.op = some .mine
  pending : s.pending = []
  abortReq : s.abortReq = false
  diff_le : s.diff.toNat ≤ 64

theorem step_mine {s : State} (hop : s.op = some .mine) (hpend : s.pending = []) : step s = exec .mine s.advance :=
  step_engine_busy (by rw [State.nextEvent, hpend]; rfl) hop

/-- With nothing scheduled `advance` only ends a read. -/
theorem State.advance_of_idle_schedule {s : State} (hpend : s.pending = []) :
    s.advance = { s with rdata := none } := by
  rw [State.advance, hpend, List.tail_nil, ← hpend]

/-! ## The state after `k` failed attempts (41_hash_mining.md R171) -/

/-- The working registers after `k` attempts of a MINE that is busy in `s`. -/
def State.attemptRegs (s : State) : Nat → HashRegs Config.W
  | 0 => s.hashRegs
  | k + 1 => s.refHashAt (s.attemptNonce (k + 1))

/-- `s` after `k` failed attempts and no read. -/
def State.afterMisses (s : State) (k : Nat) : State :=
  { s.setHashRegs (s.attemptRegs k) with
    nonce := s.attemptNonce k, attempts := s.attempts + BitVec.ofNat 32 k, rdata := none }

theorem word_add_succ (n : Word) (k : Nat) : n + BitVec.ofNat 32 (k + 1) = n + BitVec.ofNat 32 k + 1 := by
  rw [BitVec.ofNat_add, ← BitVec.add_assoc]
  rfl

/-- No failed attempt: `s` itself. -/
theorem State.afterMisses_zero {s : State} (hpend : s.pending = []) : s.afterMisses 0 = s.advance := by
  rw [State.advance_of_idle_schedule hpend, State.afterMisses, State.attemptNonce, BitVec.add_zero, BitVec.add_zero]
  rfl

theorem State.refHashAt_afterMisses (s : State) (k : Nat) :
    (s.afterMisses k).refHashAt ((s.afterMisses k).nonce + 1) = s.refHashAt (s.attemptNonce (k + 1)) :=
  congrArg s.refHashAt (word_add_succ s.nonce k).symm

/-- One more attempt. -/
theorem State.mineHash_afterMisses (s : State) (k : Nat) : (s.afterMisses k).mineHash = s.afterMisses (k + 1) := by
  have hnonce : (s.afterMisses k).nonce + 1 = s.attemptNonce (k + 1) := (word_add_succ s.nonce k).symm
  have hattempts : (s.afterMisses k).attempts + 1 = s.attempts + BitVec.ofNat 32 (k + 1) :=
    (word_add_succ s.attempts k).symm
  rw [State.mineHash_eq_ref, s.refHashAt_afterMisses, hnonce, hattempts]
  rfl

/-! ## The attempts left -/

theorem State.attemptsLeft_le_nonces (s : State) : s.attemptsLeft ≤ 0xFFFFFFFF - s.nonce.toNat := by
  unfold State.attemptsLeft
  split_ifs
  · exact Nat.le_refl _
  · exact Nat.min_le_right _ _

theorem State.attemptsLeft_of_cap {s : State} (hcap : s.maxatt ≠ 0) :
    s.attemptsLeft = min (s.maxatt.toNat - s.attempts.toNat) (0xFFFFFFFF - s.nonce.toNat) := if_neg hcap

theorem word_add_toNat {n : Word} {k : Nat} (h : n.toNat + k ≤ 0xFFFFFFFF) :
    (n + BitVec.ofNat 32 k).toNat = n.toNat + k := by
  rw [BitVec.toNat_add, BitVec.toNat_ofNat]
  omega

/-- Within the attempts left NONCE and ATTEMPTS do not wrap. -/
theorem State.Searching.counts {s : State} (hs : s.Searching) {k : Nat} (hk : k ≤ s.attemptsLeft) :
    (s.afterMisses k).nonce.toNat = s.nonce.toNat + k ∧ (s.afterMisses k).attempts.toNat = s.attempts.toNat + k := by
  have hleft := s.attemptsLeft_le_nonces
  have hle := hs.inv.attempts_le_nonce hs.op
  have hlt := s.nonce.isLt
  exact ⟨word_add_toNat (by omega), word_add_toNat (by omega)⟩

/-- Before the last attempt none of the four checks applies. -/
theorem State.Searching.canAttempt {s : State} (hs : s.Searching) {k : Nat} (hk : k < s.attemptsLeft) :
    (s.afterMisses k).CanAttempt := by
  obtain ⟨hnonce, hattempts⟩ := hs.counts hk.le
  have hleft := s.attemptsLeft_le_nonces
  refine ⟨hs.diff_le, hs.abortReq, or_iff_not_imp_left.2 fun hcap heq => ?_, fun heq => ?_⟩
  · have hleft := State.attemptsLeft_of_cap (s := s) hcap
    have hmax : (s.afterMisses k).attempts.toNat = s.maxatt.toNat := congrArg BitVec.toNat heq
    omega
  · have hmax : (s.afterMisses k).nonce.toNat = 0xFFFFFFFF := congrArg BitVec.toNat heq
    omega

/-- After the last one the cap or the last nonce is reached. -/
theorem State.Searching.exhausted {s : State} (hs : s.Searching) :
    s.maxatt ≠ 0 ∧ (s.afterMisses s.attemptsLeft).attempts = s.maxatt ∨
      (s.afterMisses s.attemptsLeft).nonce = 0xFFFFFFFF#32 := by
  obtain ⟨hnonce, hattempts⟩ := hs.counts (Nat.le_refl _)
  have hlt := s.nonce.isLt
  by_cases hall : s.attemptsLeft = 0xFFFFFFFF - s.nonce.toNat
  · refine .inr (BitVec.eq_of_toNat_eq ?_)
    rw [hnonce, hall]
    exact Nat.add_sub_of_le (by omega)
  · have hcap : s.maxatt ≠ 0 := fun h => hall (if_pos h)
    have hleft := State.attemptsLeft_of_cap hcap
    have hle := hs.inv.attempts_le_cap hs.op hcap
    exact .inl ⟨hcap, BitVec.eq_of_toNat_eq (by omega)⟩

/-! ## The run of the failed attempts -/

/-- The first `k` attempts of a MINE that is busy in `s` fail. -/
def State.Misses (s : State) (k : Nat) : Prop :=
  ∀ j, 1 ≤ j → j ≤ k → ¬ refMeets (s.refHashAt (s.attemptNonce j)).acc s.diff.toNat

theorem State.Searching.advance_afterMisses {s : State} (hs : s.Searching) (k : Nat) :
    (s.afterMisses k).advance = s.afterMisses k :=
  State.advance_of_idle_schedule (s := s.afterMisses k) hs.pending

theorem State.Searching.step_afterMisses {s : State} (hs : s.Searching) (k : Nat) :
    step (s.afterMisses k) = exec .mine (s.afterMisses k) :=
  (step_mine (s := s.afterMisses k) hs.op hs.pending).trans (congrArg _ (hs.advance_afterMisses k))

/-- The first step of a MINE does not look at the port. -/
theorem State.Searching.step_eq {s : State} (hs : s.Searching) : step s = step (s.afterMisses 0) := by
  rw [hs.step_afterMisses, State.afterMisses_zero hs.pending, step_mine hs.op hs.pending]

/-- What the step after `k` failed attempts leads to is reached from `s` in `k + 1` steps. -/
theorem State.Searching.runsTo {s t : State} (hs : s.Searching) {k : Nat} (hk : k ≤ s.attemptsLeft)
    (hmiss : s.Misses k) (ht : exec .mine (s.afterMisses k) = .next t) : RunsTo (k + 1) s t := by
  induction k generalizing t with
  | zero =>
    refine RunsTo.succ ?_ (RunsTo.zero t)
    rw [hs.step_eq, hs.step_afterMisses, ht]
  | succ k ih =>
    have hunmet := hmiss (k + 1) (by omega) (Nat.le_refl _)
    rw [← s.refHashAt_afterMisses] at hunmet
    have hattempt := (hs.canAttempt hk).exec_mine_unmet hunmet
    rw [s.mineHash_afterMisses] at hattempt
    have hrun := ih (Nat.le_of_succ_le hk) (fun j h1 hj => hmiss j h1 (by omega)) hattempt
    exact hrun.snoc ((hs.step_afterMisses _).trans ht)

/-! ## How it ends (41_hash_mining.md R172, R173) -/

/-- Settles O29: `k - 1` attempts fail, and the step after them is the attempt that meets the target. -/
theorem mineFindsTheFirstNonce : Obligations.MineFindsTheFirstNonce := by
  intro s k hinv hop hpend habort hdiff hk hleft hmet hfirst
  have hs : s.Searching := ⟨hinv, hop, hpend, habort, hdiff⟩
  obtain ⟨m, rfl⟩ := Nat.exists_eq_add_of_le' hk
  rw [← s.refHashAt_afterMisses] at hmet
  have hfound := (hs.canAttempt hleft).exec_mine_met hmet
  rw [s.mineHash_afterMisses] at hfound
  exact hs.runsTo (Nat.le_of_succ_le hleft) (fun j h1 hj => hfirst j h1 (by omega)) hfound

/-- Settles O30: all the attempts fail, and the step after them finds no attempt left. -/
theorem mineExhaustsItsAttempts : Obligations.MineExhaustsItsAttempts := by
  intro s hinv hop hpend habort hdiff hmiss
  have hs : s.Searching := ⟨hinv, hop, hpend, habort, hdiff⟩
  refine ⟨s.attemptRegs s.attemptsLeft, fun h => ?_, fun h => ?_, ?_⟩
  · rw [h]
    rfl
  · obtain ⟨m, hm⟩ := Nat.exists_eq_succ_of_ne_zero h
    rw [hm]
    rfl
  · exact hs.runsTo (Nat.le_refl _) hmiss (exec_mine_exhausted hdiff habort hs.exhausted)

/-- Settles O31: a check ends the MINE at once, or the first success does, or the last failure. -/
theorem mineEndsWithinItsAttempts : Obligations.MineEndsWithinItsAttempts := by
  intro s hinv hop hpend
  have hone : ∀ c, exec .mine s.advance = .next (s.advance.finish c) →
      ∃ (k : Nat) (t : State), k ≤ s.attemptsLeft + 1 ∧ RunsTo k s t ∧ t.op = none ∧ t.done = true := fun c hc =>
    ⟨1, _, by omega, RunsTo.succ ((step_mine hop hpend).trans hc) (RunsTo.zero _), rfl, rfl⟩
  by_cases hdiff : 64 < s.diff.toNat
  · exact hone _ (exec_mine_badDiff hdiff)
  by_cases habort : s.abortReq = true
  · exact hone _ (exec_mine_aborted (not_lt.1 hdiff) habort)
  rw [not_lt] at hdiff
  rw [Bool.not_eq_true] at habort
  by_cases hex : ∃ j, 1 ≤ j ∧ j ≤ s.attemptsLeft ∧ refMeets (s.refHashAt (s.attemptNonce j)).acc s.diff.toNat
  · obtain ⟨h1, hleft, hmet⟩ := Nat.find_spec hex
    have hfirst : ∀ j, 1 ≤ j → j < Nat.find hex →
        ¬ refMeets (s.refHashAt (s.attemptNonce j)).acc s.diff.toNat := fun j hj hlt hm =>
      Nat.find_min hex hlt ⟨hj, by omega, hm⟩
    exact ⟨_, _, Nat.le_succ_of_le hleft,
      mineFindsTheFirstNonce s _ hinv hop hpend habort hdiff h1 hleft hmet hfirst, rfl, rfl⟩
  · obtain ⟨h, -, -, hrun⟩ := mineExhaustsItsAttempts s hinv hop hpend habort hdiff
      fun j h1 hj hm => hex ⟨j, h1, hj, hm⟩
    exact ⟨_, _, Nat.le_refl _, hrun, rfl, rfl⟩

end Sys2Proof.Machine
end

section
/-!
SUPPORT. The command life cycle (60_exceptions.md R200-R212): what a CMD write leads to, which command a step runs, when
it completes, and what a write just before the completion leaves of it.
-/

namespace Sys2Proof.Machine

/-! ## Completion (60_exceptions.md R202, R204) -/

/-- STATUS and the latches after a completion. -/
theorem Completed.status {i : Instr} {s t : State} (h : Completed i s t) :
    t.op = none ∧ t.done = true ∧ t.result ≠ .none ∧ t.abortReq = false := by
  refine ⟨?_, ?_, h.result_ne_none, ?_⟩ <;> rw [h.frame] <;> rfl

/-- Settles O40: of the two things a transition can do, only a MINE can make an attempt and stay busy. -/
theorem otherCommandsCompleteInOneTransition : Obligations.OtherCommandsCompleteInOneTransition := by
  intro i s hi
  obtain ⟨t, ht⟩ := exec_answers_next i s
  obtain hc | ⟨hmine, -⟩ := exec_cases ht
  · exact ⟨t, ht, hc.status⟩
  · exact absurd hmine hi

/-- An attempt that drops BUSY has met the target. -/
theorem State.mineAttempt_completes {s : State} (hbusy : s.op ≠ none) (hidle : s.mineAttempt.op = none) :
    meets s.mineHash.acc s.diff.toNat = true ∧
      s.mineAttempt = State.finish .ok { s.mineHash with digest := s.mineHash.acc } := by
  obtain hmet | ⟨-, he⟩ := s.mineAttempt_cases
  · exact hmet
  · rw [he] at hidle
    exact absurd hidle hbusy

/-- A transition that drops BUSY sets DONE. -/
theorem exec_done_of_completes {i : Instr} {s c : State} (h : exec i s = .next c) (hbusy : s.op ≠ none)
    (hidle : c.op = none) : c.done = true := by
  obtain hc | ⟨-, -, -, -, rfl⟩ := exec_cases h
  · obtain ⟨-, hdone, -, -⟩ := hc.status
    exact hdone
  · rw [(State.mineAttempt_completes hbusy hidle).2]
    rfl

/-! ## CMD writes (60_exceptions.md R201, R203) -/

theorem State.write_cmd (s : State) (v : Word) : s.transact (.write 0x00C#12 v) = s.cmdWrite v := by
  rw [State.transact_write, targetAt_cmd]
  rfl

theorem State.write_cmd_accepted {s : State} (v : Word) (h : s.op = none) :
    s.transact (.write 0x00C#12 v) = s.accept (decode v) := by
  rw [s.write_cmd, s.cmdWrite_idle v h]

theorem State.write_cmd_dropped {s : State} {v : Word} {i : Instr} (h : s.op = some i)
    (hv : ¬ (v = 0x0000000A#32 ∧ i = .mine)) : s.transact (.write 0x00C#12 v) = s.dropCommand := by
  rw [s.write_cmd, s.cmdWrite_busy v i h, if_neg hv]

/-- Settles O36: the write is `accept` of the decoded word. -/
theorem commandWriteIsAccepted : Obligations.CommandWriteIsAccepted := fun _ v => State.write_cmd_accepted v

/-- Settles O37: the write is `requestAbort` where it is an ABORT for a MINE, and `dropCommand` otherwise. -/
theorem commandWriteWhileBusy : Obligations.CommandWriteWhileBusy := by
  refine fun s v i h => ⟨?_, State.write_cmd_dropped h⟩
  rintro ⟨rfl, rfl⟩
  exact s.write_abort h

/-! ## The step that runs a command (60_exceptions.md R202) -/

/-- A scheduled host transaction finds its event taken off the schedule. -/
theorem step_host_advance {s : State} {op : HostOp} {rest : List Event} (h : s.pending = .host op :: rest) :
    step s = .next (s.advance.transact op) :=
  lowAddressBitsAreIgnored.2 s op rest h

theorem State.withFetchWord_of_decode (s : State) {nbits w : Nat} {i : Instr} (h : decodeTableWord nbits w = some i) :
    s.withFetchWord nbits w = s.ready i := by
  rw [State.withFetchWord, State.readyWord, h]

/-- Settles O38: in each of the three set-ups the engine has the turn and the command is latched. -/
theorem stepRunsTheLatchedCommand : Obligations.StepRunsTheLatchedCommand := by
  refine ⟨fun s i => step_engine_busy, fun s nbits w i h => ?_, fun s v rest hop hpend => ?_⟩
  · rw [s.withFetchWord_of_decode h]
    exact step_engine_busy (s := s.ready i) rfl rfl
  · have hwrite := step_host s _ _ hpend
    rw [State.write_cmd_accepted v (s := { s with pending := .engine :: rest, rdata := none }) hop] at hwrite
    exact ⟨_, hwrite, step_engine_busy rfl rfl⟩

/-! ## A write just before the completion (60_exceptions.md R212) -/

/-- `s` with the three flags of STATUS that a host write can change. -/
def State.withFlags (s : State) (done cerr werr : Bool) : State := { s with done := done, cerr := cerr, werr := werr }

/-- No command but MINE looks at the flags; each of them sets DONE and keeps CERR and WERR. -/
theorem exec_withFlags_of_ne_mine {i : Instr} {s c : State} (hi : i ≠ .mine) (h : exec i s = .next c)
    (done cerr werr : Bool) :
    exec i (s.withFlags done cerr werr) = .next { c with cerr := cerr, werr := werr } := by
  cases i with
  | mine => exact absurd rfl hi
  | _ =>
    obtain rfl := Host.Outcome.next.inj h
    rfl

/-- The same for the MINE step that completes: its checks and its attempt do not look at the flags. -/
theorem exec_mine_withFlags {s c : State} (hbusy : s.op ≠ none) (h : exec .mine s = .next c) (hidle : c.op = none)
    (done cerr werr : Bool) :
    exec .mine (s.withFlags done cerr werr) = .next { c with cerr := cerr, werr := werr } := by
  obtain ⟨hd, he⟩ | ⟨hd, ha, he⟩ | ⟨hd, ha, hstop, he⟩ | ⟨hd, ha, hcap, hnonce, he⟩ := execMine_cases s <;>
    obtain rfl := Host.Outcome.next.inj (he.symm.trans h)
  · exact exec_mine_badDiff (s := s.withFlags done cerr werr) hd
  · exact exec_mine_aborted (s := s.withFlags done cerr werr) hd ha
  · exact exec_mine_exhausted (s := s.withFlags done cerr werr) hd ha hstop
  · have hcan : (s.withFlags done cerr werr).CanAttempt := ⟨hd, ha, hcap, hnonce⟩
    obtain ⟨hmet, hfinish⟩ := State.mineAttempt_completes hbusy hidle
    rw [hcan.exec_mine, hfinish]
    exact congrArg _ ((s.withFlags done cerr werr).mineHash.judgeAttempt_met hmet)

/-- A transition that completes its command completes it whatever the flags are, and keeps CERR and WERR. -/
theorem exec_withFlags_of_completes {i : Instr} {s c : State} (hbusy : s.op ≠ none) (h : exec i s = .next c)
    (hidle : c.op = none) (done cerr werr : Bool) :
    exec i (s.withFlags done cerr werr) = .next { c with cerr := cerr, werr := werr } := by
  by_cases hi : i = .mine
  · subst hi
    exact exec_mine_withFlags hbusy h hidle done cerr werr
  · exact exec_withFlags_of_ne_mine hi h done cerr werr

/-- A host transaction that changes flags only, and the engine's turn after it. -/
theorem step_flags_then_engine {s : State} {op : HostOp} {rest : List Event} {i : Instr} {done cerr werr : Bool}
    (hop : s.op = some i) (hpend : s.pending = .host op :: .engine :: rest)
    (hflags : s.advance.transact op = s.advance.withFlags done cerr werr) :
    ∃ t, step s = .next t ∧ step t = exec i (s.advance.advance.withFlags done cerr werr) := by
  have hturn : s.advance.nextEvent = .engine := by
    rw [State.nextEvent, State.advance_pending, hpend]
    rfl
  refine ⟨s.advance.withFlags done cerr werr, ?_, step_engine_busy (s := s.advance.withFlags done cerr werr) hturn hop⟩
  rw [step_host_advance hpend, hflags]

/-- Settles O44: either write changes flags only, and then the engine runs the latched command. -/
theorem writeThenCompletionLosesNothing : Obligations.WriteThenCompletionLosesNothing := by
  intro s c i v rest hop h hidle
  have hbusy : s.op ≠ none := hop ▸ Option.some_ne_none i
  have hcompletes := exec_withFlags_of_completes (s := s.advance.advance) hbusy h hidle
  refine ⟨exec_done_of_completes h hbusy hidle, fun hpend => ?_, fun hv hpend => ?_⟩
  · obtain ⟨t, hwrite, hrun⟩ := step_flags_then_engine hop hpend (statusWriteClearsWhatItNames s.advance v)
    exact ⟨t, hwrite, hrun.trans (hcompletes _ _ _)⟩
  · obtain ⟨t, hwrite, hrun⟩ := step_flags_then_engine (done := s.done) (cerr := true) (werr := s.werr) hop hpend
      (State.write_cmd_dropped (s := s.advance) hop hv)
    have hwerr : c.werr = s.werr := by
      rw [exec_frame h]
      rfl
    exact ⟨t, hwrite, hrun.trans (hwerr ▸ hcompletes _ _ _)⟩

end Sys2Proof.Machine
end

section
/-!
SUPPORT. Reset and the hazards (70_reset_and_hazards.md): the reset state word by word (R241), the reset event (R240),
and which nonces a MINE can tell apart (R255).
-/

namespace Sys2Proof.Machine

/-! ## The reset state (70_reset_and_hazards.md R241) -/

theorem seqWord_zero {n : Nat} (j : Nat) : seqWord (0#n) j = 0 := BitVec.extractLsb'_zero

theorem msgWord_replicate_zero (j : Fin 16) : msgWord (Vector.replicate 64 0) j = 0 := by
  simp only [msgWord, Vector.getElem_replicate]
  decide

/-- While a register holds 0 all of its words do; ID alone holds a constant. -/
theorem reset_windowWord (p : Target) : State.reset.windowWord p = if p = .id then 0x43414801#32 else 0 := by
  cases p with
  | msg j => exact msgWord_replicate_zero j
  | cells j | acc j | digest j | exp j => exact seqWord_zero j
  | _ => rfl

/-- Settles O57: the window by `reset_windowWord`, the fields outside it by the table itself. -/
theorem resetStateTable : Obligations.ResetStateTable :=
  ⟨reset_windowWord, rfl, rfl, rfl, rfl, rfl, rfl, rfl, rfl, rfl⟩

/-- Settles O59: the reset state is idle. -/
theorem resetHasTheInvariant : Obligations.ResetHasTheInvariant := .of_idle rfl rfl rfl nofun

/-! ## The reset event (70_reset_and_hazards.md R240) -/

theorem State.resetEvent_registers (s : State) : s.resetEvent.registers = State.reset := rfl

theorem step_reset_event {s : State} (h : s.nextEvent = .reset) : step s = .next s.advance.resetEvent := by
  rw [step, transition, h, deliver]

/-- Settles O58: the reset event keeps the advanced schedule and the draw counter, which `registers` leaves out. -/
theorem resetEventLeavesTheResetState : Obligations.ResetEventLeavesTheResetState := fun s h =>
  ⟨_, step_reset_event h, s.advance.resetEvent_registers, rfl, rfl⟩

/-! ## Nonces in the message window (70_reset_and_hazards.md R255) -/

/-- The digits of a nonce tell its value. -/
theorem dec_injective : Function.Injective dec := by
  intro n n' h
  have hvalue : n.toNat = n'.toNat := by
    rw [← (decSpellsTheNonce n).1, ← (decSpellsTheNonce n').1, h]
  exact BitVec.eq_of_toNat_eq hvalue

/-- The ten places after a prefix of at most 54 bytes hold any nonce whole. -/
theorem dec_take_of_prefix_le {m : Nat} (hm : m ≤ 54) (n : Word) : (dec n).take (64 - m) = dec n :=
  List.take_of_length_le ((decDigits_length_le 10 n.toNat).trans (by omega))

/-- The prefix is common to all nonces, so two preimages are equal exactly when the nonces' digits that fit are. -/
theorem State.preimageOf_eq_iff (s : State) (n n' : Word) :
    s.preimageOf n = s.preimageOf n' ↔ (dec n).take (64 - s.mlen.toNat) = (dec n').take (64 - s.mlen.toNat) := by
  rw [s.preimageOf_eq_append, s.preimageOf_eq_append, List.append_cancel_left_eq]

/-- Settles O25: by `preimageOf_eq_iff`, all digits fit up to MLEN = 54 and none from MLEN = 64 on. -/
theorem nonceInTheMessageWindow : Obligations.NonceInTheMessageWindow := by
  intro s n n'
  refine ⟨fun hshort h => ?_, fun hfull => ?_, (s.preimageOf_eq_iff n n').2⟩
  · rw [s.preimageOf_eq_iff, dec_take_of_prefix_le hshort, dec_take_of_prefix_le hshort] at h
    exact dec_injective h
  · rw [s.preimageOf_of_full n hfull, s.preimageOf_of_full n' hfull]

end Sys2Proof.Machine
end
